-- ==== Sys2Proof/Word.lean ====
section
/-! DEFINITION. The machine's word types (spec/00_scope.md R1): an 8-bit datum and a 16-bit address.
Arithmetic on both wraps (R8, R90, R91), which is `BitVec` addition. -/

namespace Sys2Proof

/-- A data byte: the width of a register and of one memory cell (R1). -/
abbrev Byte := BitVec 8

/-- A 16-bit address, program counter or stack pointer (R1, R8). -/
abbrev Word := BitVec 16

end Sys2Proof
end

