-- ==== Sys2Proof/Config.lean ====
section
/-! DEFINITION. The three parameters the spec leaves OPEN (spec/00_scope.md R2, R3, R4).
The spec asks a model to take them as arguments; here they are plain data, one `Config`, which State
carries unchanged in its field `cfg` (log 1). Nothing else is parameterised (00_scope.md section 4),
and the spec leaves no value free (R7), so there is no opaque constant. -/

namespace Sys2Proof

/-- `HC_MODE` (R2): which accumulator value the Half-Carry test of Add uses. -/
inductive HcMode where
  /-- the accumulator after the result was written into it (the reference value) -/
  | postUpdate
  /-- the first operand, before the write (the corrected value) -/
  | preUpdate
  deriving DecidableEq, Repr

/-- `CP_MODE` (R3): how Compare sets its flags. -/
inductive CpMode where
  /-- Add with the subtrahend negated (R85) -/
  | reference
  /-- a true subtract-and-discard (R86) -/
  | corrected
  deriving DecidableEq, Repr

/-- The configuration of one machine: fixed while it runs. -/
structure Config where
  hcMode  : HcMode
  cpMode  : CpMode
  /-- `SP_RESET` (R4): the stack pointer after reset. -/
  spReset : Word
  deriving DecidableEq, Repr

/-- The reference configuration (00_scope.md section 4) with the spec's default for `SP_RESET` (R4). -/
def Config.reference : Config := ⟨.postUpdate, .reference, 0x0000⟩

/-- The corrected configuration (00_scope.md section 4) with the spec's default for `SP_RESET` (R4). -/
def Config.corrected : Config := ⟨.preUpdate, .corrected, 0x0000⟩

end Sys2Proof
end

