-- ==== Sys2Proof/Machine/Flags.lean ====
section
/-! DEFINITION. The flag byte and the ALU / flag engine: the pure functions of
spec/40_alu_flag_engine.md. Sums are exact natural numbers and are reduced at the end (R80). -/

namespace Sys2Proof.Machine

/-- `flags(z, n, h, c)` (00_scope.md section 6, R80): bits 7, 6, 5, 4; the low nibble is zero. -/
def flagByte (z n h c : Bool) : Byte :=
  (if z then 0x80 else 0x00) ||| (if n then 0x40 else 0x00) |||
  (if h then 0x20 else 0x00) ||| (if c then 0x10 else 0x00)

/-- Zero, bit 7 (10_state.md R15). -/
def flagZ (f : Byte) : Bool := f.getLsbD 7

/-- Subtract, bit 6 (R15). -/
def flagN (f : Byte) : Bool := f.getLsbD 6

/-- Half-Carry, bit 5 (R15). -/
def flagH (f : Byte) : Bool := f.getLsbD 5

/-- Carry, bit 4 (R15). -/
def flagC (f : Byte) : Bool := f.getLsbD 4

/-- Carry as a number, for Add-with-carry (R82). -/
def carryIn (f : Byte) : Nat := if flagC f then 1 else 0

/-- `Add(a, b)` (R81), `b` in 0 to 256: the result and the flag byte. -/
def aluAdd (hc : HcMode) (a : Byte) (b : Nat) : Byte × Byte :=
  let sum := a.toNat + b
  let res := BitVec.ofNat 8 sum
  let base := match hc with
    | .postUpdate => res
    | .preUpdate => a
  (res, flagByte (res == 0) false (decide (base.toNat % 16 + b % 16 > 15)) (decide (sum > 255)))

/-- `Adc(a, b, f)` (R82): the operand is incremented exactly, to at most 256. -/
def aluAdc (hc : HcMode) (a b f : Byte) : Byte × Byte :=
  aluAdd hc a (b.toNat + carryIn f)

/-- `And(a, b)` (R83). -/
def aluAnd (a b : Byte) : Byte × Byte :=
  let res := a &&& b
  (res, flagByte (res == 0) false true false)

/-- `Daa(a, f)` (R84): both tests of the additive branch look at the accumulator on entry. -/
def aluDaa (a f : Byte) : Byte × Byte :=
  let n := flagN f
  let h := flagH f
  let c := flagC f
  if n then
    let corr : Byte := (if c then 0x60 else 0x00) + (if h then 0x06 else 0x00)
    let res := a - corr
    (res, flagByte (res == 0) n false c)
  else
    let high := c || decide (a.toNat > 0x99)
    let low := h || decide (a.toNat % 16 > 0x09)
    let corr : Byte := (if high then 0x60 else 0x00) ||| (if low then 0x06 else 0x00)
    let res := a + corr
    (res, flagByte (res == 0) n false high)

/-- `Compare(a, v)` when `CP_MODE = REFERENCE` (R85). -/
def compareReference (hc : HcMode) (a v : Byte) : Byte :=
  if a = v then flagByte true true false false
  else (aluAdd hc a ((0x100 - v.toNat) % 256)).2

/-- `Compare(a, v)` when `CP_MODE = CORRECTED` (R86). -/
def compareCorrected (a v : Byte) : Byte :=
  flagByte (a == v) true (decide (a.toNat % 16 < v.toNat % 16)) (decide (a.toNat < v.toNat))

/-- `Compare(a, v)` (R85, R86): the flag byte; the accumulator is not an output. -/
def aluCompare (cfg : Config) (a v : Byte) : Byte :=
  match cfg.cpMode with
  | .reference => compareReference cfg.hcMode a v
  | .corrected => compareCorrected a v

/-- `Complement(a, f)` (R87). -/
def aluComplement (a f : Byte) : Byte × Byte := (~~~a, f ||| 0x60)

/-- `FlipCarry(f)` (R88). -/
def flipCarry (f : Byte) : Byte := f ^^^ 0x10

/-- `Increment(v, f)` (R89): Half-Carry from the value before the increment; Carry kept. -/
def aluIncrement (v f : Byte) : Byte × Byte :=
  let res := v + 1
  (res, flagByte (res == 0) false (decide (v.toNat % 16 + 1 > 15)) (flagC f))

end Sys2Proof.Machine
end

