-- ==== Sys2Proof/Syntax.lean ====
section
/-! DEFINITION. Syntax: one constructor of `Instr` per row of spec/opcode_table.json (the 68
instructions of spec/30_encoding.md R68 and the faulting prefix byte 0xCB, R71), and the names the
operand forms use: registers (10_state.md R10), pairs (R12), conditions (30_encoding.md R67) and the
8-bit ALU operand (R66). An immediate has its exact width in its type (R65). -/

namespace Sys2Proof

/-- The eight 8-bit registers, in the order of the array view (10_state.md R10, R11). -/
inductive Reg where
  | b | c | d | e | h | l | a | f
  deriving DecidableEq, Repr

/-- The three derived 16-bit pair views (10_state.md R12). -/
inductive Pair where
  | bc | de | hl
  deriving DecidableEq, Repr

/-- The four conditions, in the order of the cc-field (30_encoding.md R67). -/
inductive Cond where
  | nz | z | nc | c
  deriving DecidableEq, Repr

/-- What the r-field selects (30_encoding.md R66): a register, or the byte of working space at `HL`. -/
inductive Operand8 where
  | reg (r : Reg)
  | memHL
  deriving DecidableEq, Repr

/-- One constructor per row of spec/opcode_table.json. -/
inductive Instr where
  /-- `ADD A,B`, R100 -/
  | addAB
  /-- `ADD A,C`, R101 -/
  | addAC
  /-- `ADD A,D`, R102 -/
  | addAD
  /-- `ADD A,E`, R103 -/
  | addAE
  /-- `ADD A,H`, R104 -/
  | addAH
  /-- `ADD A,L`, R105 -/
  | addAL
  /-- `ADD A,(HL)`, R106 -/
  | addAMemHL
  /-- `ADD A,A`, R107 -/
  | addAA
  /-- `ADC A,B`, R108 -/
  | adcAB
  /-- `ADC A,C`, R109 -/
  | adcAC
  /-- `ADC A,D`, R110 -/
  | adcAD
  /-- `ADC A,E`, R111 -/
  | adcAE
  /-- `ADC A,H`, R112 -/
  | adcAH
  /-- `ADC A,L`, R113 -/
  | adcAL
  /-- `ADC A,(HL)`, R114 -/
  | adcAMemHL
  /-- `ADC A,A`, R115 -/
  | adcAA
  /-- `AND A,B`, R116 -/
  | andAB
  /-- `AND A,C`, R117 -/
  | andAC
  /-- `AND A,D`, R118 -/
  | andAD
  /-- `AND A,E`, R119 -/
  | andAE
  /-- `AND A,H`, R120 -/
  | andAH
  /-- `AND A,L`, R121 -/
  | andAL
  /-- `AND A,(HL)`, R122 -/
  | andAMemHL
  /-- `AND A,A`, R123 -/
  | andAA
  /-- `CP A,B`, R124 -/
  | cpAB
  /-- `CP A,C`, R125 -/
  | cpAC
  /-- `CP A,D`, R126 -/
  | cpAD
  /-- `CP A,E`, R127 -/
  | cpAE
  /-- `CP A,H`, R128 -/
  | cpAH
  /-- `CP A,L`, R129 -/
  | cpAL
  /-- `CP A,(HL)`, R130 -/
  | cpAMemHL
  /-- `CP A,A`, R131 -/
  | cpAA
  /-- `INC B`, R132 -/
  | incB
  /-- `INC C`, R133 -/
  | incC
  /-- `INC D`, R134 -/
  | incD
  /-- `INC E`, R135 -/
  | incE
  /-- `INC H`, R136 -/
  | incH
  /-- `INC L`, R137 -/
  | incL
  /-- `INC A`, R138 -/
  | incA
  /-- `DAA`, R139 -/
  | daa
  /-- `CPL`, R140 -/
  | cpl
  /-- `CCF`, R141 -/
  | ccf
  /-- `LD B,d8`, R200 -/
  | ldB (d8 : Byte)
  /-- `LD C,d8`, R201 -/
  | ldC (d8 : Byte)
  /-- `LD D,d8`, R202 -/
  | ldD (d8 : Byte)
  /-- `LD E,d8`, R203 -/
  | ldE (d8 : Byte)
  /-- `LD H,d8`, R204 -/
  | ldH (d8 : Byte)
  /-- `LD L,d8`, R205 -/
  | ldL (d8 : Byte)
  /-- `LD A,d8`, R206 -/
  | ldA (d8 : Byte)
  /-- `LD (BC),A`, R207 -/
  | ldMemBCA
  /-- `LD (DE),A`, R208 -/
  | ldMemDEA
  /-- `LD (HL),A`, R209 -/
  | ldMemHLA
  /-- `LD A,(BC)`, R210 -/
  | ldAMemBC
  /-- `LD A,(DE)`, R211 -/
  | ldAMemDE
  /-- `LD A,(HL)`, R212 -/
  | ldAMemHL
  /-- `LD (a16),SP`, R213 -/
  | ldMemA16SP (a16 : Word)
  /-- `JP a16`, R181 -/
  | jp (a16 : Word)
  /-- `JP NZ,a16`, R182 -/
  | jpNZ (a16 : Word)
  /-- `JP Z,a16`, R183 -/
  | jpZ (a16 : Word)
  /-- `JP NC,a16`, R184 -/
  | jpNC (a16 : Word)
  /-- `JP C,a16`, R185 -/
  | jpC (a16 : Word)
  /-- `JP (HL)`, R186 -/
  | jpHL
  /-- `CALL a16`, R188 -/
  | call (a16 : Word)
  /-- `CALL NZ,a16`, R189 -/
  | callNZ (a16 : Word)
  /-- `CALL Z,a16`, R190 -/
  | callZ (a16 : Word)
  /-- `CALL NC,a16`, R191 -/
  | callNC (a16 : Word)
  /-- `CALL C,a16`, R192 -/
  | callC (a16 : Word)
  /-- `HALT`, R165 -/
  | halt
  /-- `the extended prefix`, R166 -/
  | prefixCB
  deriving DecidableEq, Repr

end Sys2Proof
end

