-- ==== Sys2Proof/WellFormed.lean ====
section
/-! DEFINITION. Well-formedness.

An `Instr` term has nothing left to check: every constructor is one row of the opcode table, every
immediate has its exact width in its type (spec/30_encoding.md R65), and the operand combinations the
spec shuts out (`INC (HL)`, `LD (HL),d8`, `f` as an operand: R64, R66, R70) are no constructors. So
`Instr.wellFormed` holds of every term, and says so constructor group by constructor group through the
bounds the types give. What CAN be ill-formed is an image a host wants to launch: a byte list longer
than a space (00_scope.md R1, 20_memory.md R44). -/

namespace Sys2Proof

/-- The operand of an instruction as a number, and the bound its format sets (R65). -/
def Instr.operandBound : Instr → Option (Nat × Nat)
  | .ldB d8 | .ldC d8 | .ldD d8 | .ldE d8 | .ldH d8 | .ldL d8 | .ldA d8 => some (d8.toNat, 256)
  | .ldMemA16SP a16 | .jp a16 | .jpNZ a16 | .jpZ a16 | .jpNC a16 | .jpC a16
  | .call a16 | .callNZ a16 | .callZ a16 | .callNC a16 | .callC a16 => some (a16.toNat, 65536)
  | .addAB | .addAC | .addAD | .addAE | .addAH | .addAL | .addAMemHL | .addAA
  | .adcAB | .adcAC | .adcAD | .adcAE | .adcAH | .adcAL | .adcAMemHL | .adcAA
  | .andAB | .andAC | .andAD | .andAE | .andAH | .andAL | .andAMemHL | .andAA
  | .cpAB | .cpAC | .cpAD | .cpAE | .cpAH | .cpAL | .cpAMemHL | .cpAA
  | .incB | .incC | .incD | .incE | .incH | .incL | .incA
  | .daa | .cpl | .ccf | .halt | .prefixCB | .jpHL
  | .ldMemBCA | .ldMemDEA | .ldMemHLA | .ldAMemBC | .ldAMemDE | .ldAMemHL => none

/-- The operand, if there is one, fits its field (R65). True of every term: the types carry it. -/
def Instr.wellFormed (i : Instr) : Bool :=
  match i.operandBound with
  | none => true
  | some (v, bound) => v < bound

/-- A byte list fits into one space (R1, R44): at most 65536 bytes. -/
def imageWellFormed (bytes : List Byte) : Bool := bytes.length ≤ 65536

end Sys2Proof
end

