-- ==== Sys2Proof/Decode.lean ====
section
/-! DEFINITION. Decoding and encoding (spec/30_encoding.md). `decodeOpcode` is the lookup of the whole
opcode byte (R163, R64) in the table of R68; `decode` reads an instruction from the front of a list of
bytes; `encode` writes one. The byte values are the spec's own choice (92_eei_decisions.md D1, log 8). -/

namespace Sys2Proof

/-- The 16-bit value with these two bytes (`hi ++ lo`). -/
def joinBytes (hi lo : Byte) : Word := hi ++ lo

/-- Bits 7..0 of a 16-bit value. -/
def lowByte (w : Word) : Byte := w.extractLsb' 0 8

/-- Bits 15..8 of a 16-bit value. -/
def highByte (w : Word) : Byte := w.extractLsb' 8 8

/-- What one opcode byte names: its format (R61) and the instruction, given the operand of that format. -/
inductive OpcodeForm where
  | op (i : Instr)
  | d8 (mk : Byte → Instr)
  | a16 (mk : Word → Instr)

/-- Instruction length in bytes by format (R61, R73). -/
def OpcodeForm.length : OpcodeForm → Nat
  | .op _ => 1
  | .d8 _ => 2
  | .a16 _ => 3

/-- The opcode map (R68, R71): `none` for the 187 unimplemented bytes (R69). -/
def decodeOpcode (op : Byte) : Option OpcodeForm :=
  match op.toNat with
  | 0x02 => some (.op .ldMemBCA)
  | 0x04 => some (.op .incB)
  | 0x06 => some (.d8 .ldB)
  | 0x08 => some (.a16 .ldMemA16SP)
  | 0x0A => some (.op .ldAMemBC)
  | 0x0C => some (.op .incC)
  | 0x0E => some (.d8 .ldC)
  | 0x12 => some (.op .ldMemDEA)
  | 0x14 => some (.op .incD)
  | 0x16 => some (.d8 .ldD)
  | 0x1A => some (.op .ldAMemDE)
  | 0x1C => some (.op .incE)
  | 0x1E => some (.d8 .ldE)
  | 0x24 => some (.op .incH)
  | 0x26 => some (.d8 .ldH)
  | 0x27 => some (.op .daa)
  | 0x2C => some (.op .incL)
  | 0x2E => some (.d8 .ldL)
  | 0x2F => some (.op .cpl)
  | 0x3C => some (.op .incA)
  | 0x3E => some (.d8 .ldA)
  | 0x3F => some (.op .ccf)
  | 0x76 => some (.op .halt)
  | 0x77 => some (.op .ldMemHLA)
  | 0x7E => some (.op .ldAMemHL)
  | 0x80 => some (.op .addAB)
  | 0x81 => some (.op .addAC)
  | 0x82 => some (.op .addAD)
  | 0x83 => some (.op .addAE)
  | 0x84 => some (.op .addAH)
  | 0x85 => some (.op .addAL)
  | 0x86 => some (.op .addAMemHL)
  | 0x87 => some (.op .addAA)
  | 0x88 => some (.op .adcAB)
  | 0x89 => some (.op .adcAC)
  | 0x8A => some (.op .adcAD)
  | 0x8B => some (.op .adcAE)
  | 0x8C => some (.op .adcAH)
  | 0x8D => some (.op .adcAL)
  | 0x8E => some (.op .adcAMemHL)
  | 0x8F => some (.op .adcAA)
  | 0xA0 => some (.op .andAB)
  | 0xA1 => some (.op .andAC)
  | 0xA2 => some (.op .andAD)
  | 0xA3 => some (.op .andAE)
  | 0xA4 => some (.op .andAH)
  | 0xA5 => some (.op .andAL)
  | 0xA6 => some (.op .andAMemHL)
  | 0xA7 => some (.op .andAA)
  | 0xB8 => some (.op .cpAB)
  | 0xB9 => some (.op .cpAC)
  | 0xBA => some (.op .cpAD)
  | 0xBB => some (.op .cpAE)
  | 0xBC => some (.op .cpAH)
  | 0xBD => some (.op .cpAL)
  | 0xBE => some (.op .cpAMemHL)
  | 0xBF => some (.op .cpAA)
  | 0xC2 => some (.a16 .jpNZ)
  | 0xC3 => some (.a16 .jp)
  | 0xC4 => some (.a16 .callNZ)
  | 0xCA => some (.a16 .jpZ)
  | 0xCB => some (.op .prefixCB)
  | 0xCC => some (.a16 .callZ)
  | 0xCD => some (.a16 .call)
  | 0xD2 => some (.a16 .jpNC)
  | 0xD4 => some (.a16 .callNC)
  | 0xDA => some (.a16 .jpC)
  | 0xDC => some (.a16 .callC)
  | 0xE9 => some (.op .jpHL)
  | _ => none

/-- Why no instruction can be read from a list of bytes. -/
inductive DecodeError where
  /-- the byte is none of R68 and not 0xCB (R69) -/
  | unimplementedOpcode (op : Byte)
  /-- the list ends before the opcode byte -/
  | noOpcode
  /-- the list ends before the operand bytes of this opcode -/
  | missingOperand (op : Byte)
  deriving DecidableEq, Repr

/-- The instruction a form names, its operand bytes taken from the front of a list (R61, R65): none when
the list is too short. -/
def OpcodeForm.withOperand : OpcodeForm → List Byte → Option (Instr × List Byte)
  | .op i, rest => some (i, rest)
  | .d8 mk, imm :: rest => some (mk imm, rest)
  | .a16 mk, lo :: hi :: rest => some (mk (joinBytes hi lo), rest)
  | .d8 _, [] => none
  | .a16 _, [] => none
  | .a16 _, [_] => none

/-- The instruction at the front of a list of bytes, and the bytes after it (R60, R65, R73). -/
def decode : List Byte → Except DecodeError (Instr × List Byte)
  | [] => .error .noOpcode
  | op :: rest =>
    match decodeOpcode op with
    | none => .error (.unimplementedOpcode op)
    | some form =>
      match form.withOperand rest with
      | some read => .ok read
      | none => .error (.missingOperand op)

/-- The opcode byte of an instruction (R68, R71). -/
def Instr.opcode : Instr → Byte
  | .addAB => 0x80
  | .addAC => 0x81
  | .addAD => 0x82
  | .addAE => 0x83
  | .addAH => 0x84
  | .addAL => 0x85
  | .addAMemHL => 0x86
  | .addAA => 0x87
  | .adcAB => 0x88
  | .adcAC => 0x89
  | .adcAD => 0x8A
  | .adcAE => 0x8B
  | .adcAH => 0x8C
  | .adcAL => 0x8D
  | .adcAMemHL => 0x8E
  | .adcAA => 0x8F
  | .andAB => 0xA0
  | .andAC => 0xA1
  | .andAD => 0xA2
  | .andAE => 0xA3
  | .andAH => 0xA4
  | .andAL => 0xA5
  | .andAMemHL => 0xA6
  | .andAA => 0xA7
  | .cpAB => 0xB8
  | .cpAC => 0xB9
  | .cpAD => 0xBA
  | .cpAE => 0xBB
  | .cpAH => 0xBC
  | .cpAL => 0xBD
  | .cpAMemHL => 0xBE
  | .cpAA => 0xBF
  | .incB => 0x04
  | .incC => 0x0C
  | .incD => 0x14
  | .incE => 0x1C
  | .incH => 0x24
  | .incL => 0x2C
  | .incA => 0x3C
  | .daa => 0x27
  | .cpl => 0x2F
  | .ccf => 0x3F
  | .ldB _ => 0x06
  | .ldC _ => 0x0E
  | .ldD _ => 0x16
  | .ldE _ => 0x1E
  | .ldH _ => 0x26
  | .ldL _ => 0x2E
  | .ldA _ => 0x3E
  | .ldMemBCA => 0x02
  | .ldMemDEA => 0x12
  | .ldMemHLA => 0x77
  | .ldAMemBC => 0x0A
  | .ldAMemDE => 0x1A
  | .ldAMemHL => 0x7E
  | .ldMemA16SP _ => 0x08
  | .jp _ => 0xC3
  | .jpNZ _ => 0xC2
  | .jpZ _ => 0xCA
  | .jpNC _ => 0xD2
  | .jpC _ => 0xDA
  | .jpHL => 0xE9
  | .call _ => 0xCD
  | .callNZ _ => 0xC4
  | .callZ _ => 0xCC
  | .callNC _ => 0xD4
  | .callC _ => 0xDC
  | .halt => 0x76
  | .prefixCB => 0xCB

/-- The operand bytes of an instruction: none, the immediate, or the address low byte first (R61, R65). -/
def Instr.operandBytes : Instr → List Byte
  | .addAB => []
  | .addAC => []
  | .addAD => []
  | .addAE => []
  | .addAH => []
  | .addAL => []
  | .addAMemHL => []
  | .addAA => []
  | .adcAB => []
  | .adcAC => []
  | .adcAD => []
  | .adcAE => []
  | .adcAH => []
  | .adcAL => []
  | .adcAMemHL => []
  | .adcAA => []
  | .andAB => []
  | .andAC => []
  | .andAD => []
  | .andAE => []
  | .andAH => []
  | .andAL => []
  | .andAMemHL => []
  | .andAA => []
  | .cpAB => []
  | .cpAC => []
  | .cpAD => []
  | .cpAE => []
  | .cpAH => []
  | .cpAL => []
  | .cpAMemHL => []
  | .cpAA => []
  | .incB => []
  | .incC => []
  | .incD => []
  | .incE => []
  | .incH => []
  | .incL => []
  | .incA => []
  | .daa => []
  | .cpl => []
  | .ccf => []
  | .ldB d8 => [d8]
  | .ldC d8 => [d8]
  | .ldD d8 => [d8]
  | .ldE d8 => [d8]
  | .ldH d8 => [d8]
  | .ldL d8 => [d8]
  | .ldA d8 => [d8]
  | .ldMemBCA => []
  | .ldMemDEA => []
  | .ldMemHLA => []
  | .ldAMemBC => []
  | .ldAMemDE => []
  | .ldAMemHL => []
  | .ldMemA16SP a16 => [lowByte a16, highByte a16]
  | .jp a16 => [lowByte a16, highByte a16]
  | .jpNZ a16 => [lowByte a16, highByte a16]
  | .jpZ a16 => [lowByte a16, highByte a16]
  | .jpNC a16 => [lowByte a16, highByte a16]
  | .jpC a16 => [lowByte a16, highByte a16]
  | .jpHL => []
  | .call a16 => [lowByte a16, highByte a16]
  | .callNZ a16 => [lowByte a16, highByte a16]
  | .callZ a16 => [lowByte a16, highByte a16]
  | .callNC a16 => [lowByte a16, highByte a16]
  | .callC a16 => [lowByte a16, highByte a16]
  | .halt => []
  | .prefixCB => []

/-- The bytes of an instruction, in ascending address order (R60, R61). -/
def encode (i : Instr) : List Byte := i.opcode :: i.operandBytes

/-- Length in bytes (R73). -/
def Instr.length (i : Instr) : Nat := 1 + i.operandBytes.length

/-- The bytes of a word numbered as spec/opcode_table.json numbers its bits: the first byte is bits
7..0, the next bits 15..8, the third bits 23..16; bits from `nbits` on are 0. -/
def tableWordBytes (nbits w : Nat) : List Byte :=
  let v := w % 2 ^ nbits
  [BitVec.ofNat 8 v, BitVec.ofNat 8 (v / 256), BitVec.ofNat 8 (v / 65536)]

/-- The instruction the decoder reads from a table word (the host's question). -/
def decodeTableWord (nbits w : Nat) : Option Instr :=
  match decode (tableWordBytes nbits w) with
  | .ok (i, _) => some i
  | .error _ => none

end Sys2Proof
end

