-- ==== Sys2Proof/Machine/State.lean ====
section
/-! DEFINITION. The state of the machine (spec/10_state.md) as plain data, its state after reset, and
the reasons a step can stop. -/

namespace Sys2Proof.Machine

/-- One 65536-byte space (20_memory.md R44): the bytes that are not 0x00, as (address, byte) pairs with
the addresses strictly rising. An unlisted address holds 0x00, so every total image is one such list
and equal images are equal lists (log 3). -/
abbrev Memory := List Host.Cell

/-- The cause of a fatal fault (60_exceptions.md R220). -/
inductive FaultCause where
  /-- cause 1, `UNIMPLEMENTED_OPCODE` -/
  | unimplementedOpcode
  /-- cause 2, `UNIMPLEMENTED_PREFIX` -/
  | unimplementedPrefix
  deriving DecidableEq, Repr

/-- The run state (10_state.md R23, R24). -/
inductive RunState where
  | running
  | halted
  | faulted (cause : FaultCause)
  deriving DecidableEq, Repr

/-- The whole architectural state (10_state.md, table at its head; R26, R27: there is no other), and
`cfg`, the three open parameters of the machine (00_scope.md R2 to R4, log 1), which no step writes. -/
structure State where
  b   : Byte
  c   : Byte
  d   : Byte
  e   : Byte
  h   : Byte
  l   : Byte
  /-- the accumulator (R14) -/
  a   : Byte
  /-- the flags (R15); bits 3..0 are hard-wired 0 in the operations that read and write it (R16) -/
  f   : Byte
  pc  : Word
  sp  : Word
  run : RunState
  /-- program space (20_memory.md R41) -/
  ps  : Memory
  /-- working space (20_memory.md R42) -/
  ws  : Memory
  cfg : Config
  deriving DecidableEq, Repr

/-- Why a step has no next state. The machine's own two fatal faults are NOT here: their entry is a
next state (60_exceptions.md R225). These two say that the run is over (00_scope.md R7, 42_dispatch_loop.md
R170: such a state has no further step); only `step` raises them. Safe: the hardware does not go on. -/
inductive Fault where
  /-- a step is asked of a state whose run state is Halted (R165, R170); safe, raised by `step` -/
  | runHalted
  /-- a step is asked of a state whose run state is Faulted (R225, R170); safe, raised by `step` -/
  | runFaulted (cause : FaultCause)
  deriving DecidableEq, Repr

/-- Why the model gives no meaning. -/
inductive Refusal where
  /-- an instruction of the table that has no meaning yet; safe, raised by an arm of `exec` only -/
  | notModelled (mnemonic : String)
  deriving DecidableEq, Repr

/-- The machine right after reset (10_state.md R29): registers, flags and `pc` zero, `run` Running.
The spec gives the images no reset value (log 3), and `SP_RESET` and the modes are parameters: here the
spec's reference values (log 1, log 2). -/
def State.reset : State where
  b := 0x00
  c := 0x00
  d := 0x00
  e := 0x00
  h := 0x00
  l := 0x00
  a := 0x00
  f := 0x00
  pc := 0x0000
  sp := Config.reference.spReset
  run := .running
  ps := []
  ws := []
  cfg := Config.reference

end Sys2Proof.Machine
end

