-- ==== Sys2Proof/Machine/Ops.lean ====
section
/-! DEFINITION. The named operations over memory and registers, taking a fault, and halting. -/

namespace Sys2Proof.Machine

/-! ## Memory (spec/20_memory.md R43, R51, R58) -/

/-- What an unlisted address holds (log 3). -/
def unlistedByte : Byte := 0x00

/-- The byte listed first under a key, else what an unlisted address holds. -/
def Memory.lookup (key : Nat) : Memory → Byte
  | [] => unlistedByte
  | (k, v) :: rest => if k = key then v else Memory.lookup key rest

/-- Insert a cell before the first larger address. -/
def Memory.insertCell (cell : Host.Cell) : Memory → Memory
  | [] => [cell]
  | head :: rest =>
    if cell.1 < head.1 then cell :: head :: rest else head :: Memory.insertCell cell rest

/-- One byte of a space; the address is reduced modulo 65536 by its width (R43, R58). -/
def Memory.read (m : Memory) (a : Word) : Byte := Memory.lookup a.toNat m

/-- `m` with one byte replaced (R58), in canonical form again: what stood at the address goes, and the
new byte is listed unless an unlisted address reads as it. -/
def Memory.write (m : Memory) (a : Word) (v : Byte) : Memory :=
  let cleared := m.filter (fun cell => cell.1 != a.toNat)
  if v = unlistedByte then cleared else Memory.insertCell (a.toNat, v) cleared

/-- The canonical form: addresses strictly rising and inside the space, no cell that an unlisted
address reads as. -/
abbrev Memory.wf (m : Memory) : Prop :=
  m.Pairwise (fun x y => x.1 < y.1) ∧ ∀ cell ∈ m, cell.1 < 65536 ∧ cell.2 ≠ unlistedByte

/-- The cells of `n` consecutive addresses from `start` of a total image. -/
def Memory.cellsFrom (image : Word → Byte) : Nat → Nat → Memory
  | 0, _ => []
  | n + 1, start =>
    let v := image (BitVec.ofNat 16 start)
    let rest := Memory.cellsFrom image n (start + 1)
    if v = unlistedByte then rest else (start, v) :: rest

/-- The space that holds a total image of 65536 bytes (R44). -/
def Memory.ofImage (image : Word → Byte) : Memory := Memory.cellsFrom image 65536 0

/-- `ProgRead(a, 1)` (R58). -/
def progRead (s : State) (a : Word) : Byte := s.ps.read a

/-- `ProgRead(a, 2)` (R58), low byte at `a`: what operand fetch assembles byte by byte. -/
def progRead16 (s : State) (a : Word) : Word := joinBytes (progRead s (a + 1)) (progRead s a)

/-- `MemRead(a, 1)` (R58). -/
def memRead (s : State) (a : Word) : Byte := s.ws.read a

/-- `MemRead(a, 2)` (R58), low byte at `a`; no instruction performs it. -/
def memRead16 (s : State) (a : Word) : Word := joinBytes (memRead s (a + 1)) (memRead s a)

/-- `MemWrite(a, 1, v)` (R58). -/
def memWrite (a : Word) (v : Byte) (s : State) : State := { s with ws := s.ws.write a v }

/-- `MemWrite(a, 2, v)` (R58): low byte at `a`, then high byte at `a + 1`, the address wrapping. -/
def memWrite16 (a : Word) (v : Word) (s : State) : State :=
  memWrite (a + 1) (highByte v) (memWrite a (lowByte v) s)

/-! ## Registers (spec/10_state.md R10 to R16) -/

/-- The bits of `f` that are storage (R16). -/
def flagMask : Byte := 0xF0

/-- `x[r]`: read of a register; bits 3..0 of `f` read as 0 (R16). -/
def readReg (s : State) : Reg → Byte
  | .b => s.b
  | .c => s.c
  | .d => s.d
  | .e => s.e
  | .h => s.h
  | .l => s.l
  | .a => s.a
  | .f => s.f &&& flagMask

/-- `x[r] <- v`: write of a register; bits 3..0 of `f` ignore the write and stay 0 (R16). -/
def writeReg (r : Reg) (v : Byte) (s : State) : State :=
  match r with
  | .b => { s with b := v }
  | .c => { s with c := v }
  | .d => { s with d := v }
  | .e => { s with e := v }
  | .h => { s with h := v }
  | .l => { s with l := v }
  | .a => { s with a := v }
  | .f => { s with f := v &&& flagMask }

/-- The register at a position of the array view (R11). -/
def regAt : Fin 8 → Reg
  | 0 => .b
  | 1 => .c
  | 2 => .d
  | 3 => .e
  | 4 => .h
  | 5 => .l
  | 6 => .a
  | 7 => .f

/-- The array view of the register file, read (R11): the same storage as the named view. -/
def readRegAt (s : State) (k : Fin 8) : Byte := readReg s (regAt k)

/-- The array view of the register file, written (R11). -/
def writeRegAt (k : Fin 8) (v : Byte) (s : State) : State := writeReg (regAt k) v s

/-- The register that holds the high byte of a pair (R12). -/
def pairHigh : Pair → Reg
  | .bc => .b
  | .de => .d
  | .hl => .h

/-- The register that holds the low byte of a pair (R12). -/
def pairLow : Pair → Reg
  | .bc => .c
  | .de => .e
  | .hl => .l

/-- A pair, computed from its two halves at the moment of use (R12). -/
def readPair (s : State) (p : Pair) : Word := joinBytes (readReg s (pairHigh p)) (readReg s (pairLow p))

/-- Write of a pair (R13): it decomposes the value. Only the launch uses it. -/
def writePair (p : Pair) (v : Word) (s : State) : State :=
  writeReg (pairLow p) (lowByte v) (writeReg (pairHigh p) (highByte v) s)

/-- `pc <- target` (00_scope.md section 6). -/
def setPc (target : Word) (s : State) : State := { s with pc := target }

/-- `sp <- v` (00_scope.md section 6). -/
def setSp (v : Word) (s : State) : State := { s with sp := v }

/-- Write of the run state (10_state.md R23). -/
def setRun (r : RunState) (s : State) : State := { s with run := r }

/-! ## The push, faults and halting -/

/-- `Push16(v)` (43_control_transfer.md R187): high byte first, each byte at the pre-decremented `sp`. -/
def push16 (v : Word) (s : State) : State :=
  let s1 := setSp (s.sp - 1) s
  let s2 := memWrite s1.sp (highByte v) s1
  let s3 := setSp (s2.sp - 1) s2
  memWrite s3.sp (lowByte v) s3

/-- Fault entry (60_exceptions.md R225): the run state becomes Faulted(cause); `pc` is already one past
the faulting byte, because the fetch advanced it, and is not undone; nothing else changes and nothing is
saved. There is no return from a fault (R227); only the reset event leaves Faulted. -/
def takeFault (cause : FaultCause) (s : State) : State := setRun (.faulted cause) s

/-- Entry into Halted (42_dispatch_loop.md R165). -/
def haltRun (s : State) : State := setRun .halted s

end Sys2Proof.Machine
end

