-- ==== Sys2Proof/Machine/Operands.lean ====
section
/-! DEFINITION. Operand forms (spec/44_load_store.md R214, 30_encoding.md R66), conditions
(43_control_transfer.md R180), and the shared operation of each instruction family over them. -/

namespace Sys2Proof.Machine

/-- The value of the 8-bit ALU operand (30_encoding.md R66): a register, or the byte of working space
at `HL`. It is read before anything is written. -/
def operandValue (s : State) : Operand8 → Byte
  | .reg r => readReg s r
  | .memHL => memRead s (readPair s .hl)

/-- `cond(cc)` (R180), on the flags as they are when the instruction starts. -/
def condHolds (s : State) : Cond → Bool
  | .nz => !flagZ (readReg s .f)
  | .z => flagZ (readReg s .f)
  | .nc => !flagC (readReg s .f)
  | .c => flagC (readReg s .f)

/-- Write a result and a flag byte: `x[r] <- res`, `x[F] <- fl`. -/
def writeResult (r : Reg) (out : Byte × Byte) (s : State) : State :=
  writeReg .f out.2 (writeReg r out.1 s)

/-! ## The ALU families (41_alu_instructions.md) -/

/-- `ADD A,r` (R100 to R107). -/
def addToA (o : Operand8) (s : State) : State :=
  writeResult .a (aluAdd s.cfg.hcMode (readReg s .a) (operandValue s o).toNat) s

/-- `ADC A,r` (R108 to R115). -/
def adcToA (o : Operand8) (s : State) : State :=
  writeResult .a (aluAdc s.cfg.hcMode (readReg s .a) (operandValue s o) (readReg s .f)) s

/-- `AND A,r` (R116 to R123). -/
def andToA (o : Operand8) (s : State) : State :=
  writeResult .a (aluAnd (readReg s .a) (operandValue s o)) s

/-- `CP A,r` (R124 to R131): the accumulator keeps its value. -/
def compareWithA (o : Operand8) (s : State) : State :=
  writeReg .f (aluCompare s.cfg (readReg s .a) (operandValue s o)) s

/-- `INC r` (R132 to R138). -/
def incrementReg (r : Reg) (s : State) : State :=
  writeResult r (aluIncrement (readReg s r) (readReg s .f)) s

/-! ## Loads and stores (44_load_store.md) -/

/-- `LD (rr),A` (R207 to R209). -/
def storeA (p : Pair) (s : State) : State := memWrite (readPair s p) (readReg s .a) s

/-- `LD A,(rr)` (R210 to R212). -/
def loadA (p : Pair) (s : State) : State := writeReg .a (memRead s (readPair s p)) s

/-! ## Control transfer (43_control_transfer.md); `pc` is already past the instruction -/

/-- `JP cc,a16` (R182 to R185). -/
def jumpIf (cc : Cond) (target : Word) (s : State) : State :=
  if condHolds s cc then setPc target s else s

/-- `CALL a16` (R188): push the address after the operand bytes, then jump. -/
def callTo (target : Word) (s : State) : State := setPc target (push16 s.pc s)

/-- `CALL cc,a16` (R189 to R192). -/
def callIf (cc : Cond) (target : Word) (s : State) : State :=
  if condHolds s cc then callTo target s else s

end Sys2Proof.Machine
end

