-- ==== Sys2Proof/Machine/Alu.lean ====
section
/-! DEFINITION. The ALU instructions (spec/41_alu_instructions.md): ADD, ADC, AND, CP, INC, DAA, CPL, CCF. One
meaning per row of the opcode table, over the shared operations of Operands.lean. None can fault (R221). -/

namespace Sys2Proof.Machine

/-- `ADD A,B`, R100. -/
def execAddAB (s : State) : Host.Outcome State Fault Refusal :=
  .next (addToA (.reg .b) s)

/-- `ADD A,C`, R101. -/
def execAddAC (s : State) : Host.Outcome State Fault Refusal :=
  .next (addToA (.reg .c) s)

/-- `ADD A,D`, R102. -/
def execAddAD (s : State) : Host.Outcome State Fault Refusal :=
  .next (addToA (.reg .d) s)

/-- `ADD A,E`, R103. -/
def execAddAE (s : State) : Host.Outcome State Fault Refusal :=
  .next (addToA (.reg .e) s)

/-- `ADD A,H`, R104. -/
def execAddAH (s : State) : Host.Outcome State Fault Refusal :=
  .next (addToA (.reg .h) s)

/-- `ADD A,L`, R105. -/
def execAddAL (s : State) : Host.Outcome State Fault Refusal :=
  .next (addToA (.reg .l) s)

/-- `ADD A,(HL)`, R106. -/
def execAddAMemHL (s : State) : Host.Outcome State Fault Refusal :=
  .next (addToA .memHL s)

/-- `ADD A,A`, R107. -/
def execAddAA (s : State) : Host.Outcome State Fault Refusal :=
  .next (addToA (.reg .a) s)

/-- `ADC A,B`, R108. -/
def execAdcAB (s : State) : Host.Outcome State Fault Refusal :=
  .next (adcToA (.reg .b) s)

/-- `ADC A,C`, R109. -/
def execAdcAC (s : State) : Host.Outcome State Fault Refusal :=
  .next (adcToA (.reg .c) s)

/-- `ADC A,D`, R110. -/
def execAdcAD (s : State) : Host.Outcome State Fault Refusal :=
  .next (adcToA (.reg .d) s)

/-- `ADC A,E`, R111. -/
def execAdcAE (s : State) : Host.Outcome State Fault Refusal :=
  .next (adcToA (.reg .e) s)

/-- `ADC A,H`, R112. -/
def execAdcAH (s : State) : Host.Outcome State Fault Refusal :=
  .next (adcToA (.reg .h) s)

/-- `ADC A,L`, R113. -/
def execAdcAL (s : State) : Host.Outcome State Fault Refusal :=
  .next (adcToA (.reg .l) s)

/-- `ADC A,(HL)`, R114. -/
def execAdcAMemHL (s : State) : Host.Outcome State Fault Refusal :=
  .next (adcToA .memHL s)

/-- `ADC A,A`, R115. -/
def execAdcAA (s : State) : Host.Outcome State Fault Refusal :=
  .next (adcToA (.reg .a) s)

/-- `AND A,B`, R116. -/
def execAndAB (s : State) : Host.Outcome State Fault Refusal :=
  .next (andToA (.reg .b) s)

/-- `AND A,C`, R117. -/
def execAndAC (s : State) : Host.Outcome State Fault Refusal :=
  .next (andToA (.reg .c) s)

/-- `AND A,D`, R118. -/
def execAndAD (s : State) : Host.Outcome State Fault Refusal :=
  .next (andToA (.reg .d) s)

/-- `AND A,E`, R119. -/
def execAndAE (s : State) : Host.Outcome State Fault Refusal :=
  .next (andToA (.reg .e) s)

/-- `AND A,H`, R120. -/
def execAndAH (s : State) : Host.Outcome State Fault Refusal :=
  .next (andToA (.reg .h) s)

/-- `AND A,L`, R121. -/
def execAndAL (s : State) : Host.Outcome State Fault Refusal :=
  .next (andToA (.reg .l) s)

/-- `AND A,(HL)`, R122. -/
def execAndAMemHL (s : State) : Host.Outcome State Fault Refusal :=
  .next (andToA .memHL s)

/-- `AND A,A`, R123. -/
def execAndAA (s : State) : Host.Outcome State Fault Refusal :=
  .next (andToA (.reg .a) s)

/-- `CP A,B`, R124. -/
def execCpAB (s : State) : Host.Outcome State Fault Refusal :=
  .next (compareWithA (.reg .b) s)

/-- `CP A,C`, R125. -/
def execCpAC (s : State) : Host.Outcome State Fault Refusal :=
  .next (compareWithA (.reg .c) s)

/-- `CP A,D`, R126. -/
def execCpAD (s : State) : Host.Outcome State Fault Refusal :=
  .next (compareWithA (.reg .d) s)

/-- `CP A,E`, R127. -/
def execCpAE (s : State) : Host.Outcome State Fault Refusal :=
  .next (compareWithA (.reg .e) s)

/-- `CP A,H`, R128. -/
def execCpAH (s : State) : Host.Outcome State Fault Refusal :=
  .next (compareWithA (.reg .h) s)

/-- `CP A,L`, R129. -/
def execCpAL (s : State) : Host.Outcome State Fault Refusal :=
  .next (compareWithA (.reg .l) s)

/-- `CP A,(HL)`, R130. -/
def execCpAMemHL (s : State) : Host.Outcome State Fault Refusal :=
  .next (compareWithA .memHL s)

/-- `CP A,A`, R131. -/
def execCpAA (s : State) : Host.Outcome State Fault Refusal :=
  .next (compareWithA (.reg .a) s)

/-- `INC B`, R132. -/
def execIncB (s : State) : Host.Outcome State Fault Refusal :=
  .next (incrementReg .b s)

/-- `INC C`, R133. -/
def execIncC (s : State) : Host.Outcome State Fault Refusal :=
  .next (incrementReg .c s)

/-- `INC D`, R134. -/
def execIncD (s : State) : Host.Outcome State Fault Refusal :=
  .next (incrementReg .d s)

/-- `INC E`, R135. -/
def execIncE (s : State) : Host.Outcome State Fault Refusal :=
  .next (incrementReg .e s)

/-- `INC H`, R136. -/
def execIncH (s : State) : Host.Outcome State Fault Refusal :=
  .next (incrementReg .h s)

/-- `INC L`, R137. -/
def execIncL (s : State) : Host.Outcome State Fault Refusal :=
  .next (incrementReg .l s)

/-- `INC A`, R138. -/
def execIncA (s : State) : Host.Outcome State Fault Refusal :=
  .next (incrementReg .a s)

/-- `DAA`, R139. -/
def execDaa (s : State) : Host.Outcome State Fault Refusal :=
  .next (writeResult .a (aluDaa (readReg s .a) (readReg s .f)) s)

/-- `CPL`, R140. -/
def execCpl (s : State) : Host.Outcome State Fault Refusal :=
  .next (writeResult .a (aluComplement (readReg s .a) (readReg s .f)) s)

/-- `CCF`, R141. -/
def execCcf (s : State) : Host.Outcome State Fault Refusal :=
  .next (writeReg .f (flipCarry (readReg s .f)) s)

end Sys2Proof.Machine
end

