-- ==== Sys2Proof/Machine/Control.lean ====
section
/-! DEFINITION. Control transfer (spec/43_control_transfer.md), HALT and the faulting prefix
(42_dispatch_loop.md R165, R166). `pc` has already been advanced past the instruction (R161, R162). -/

namespace Sys2Proof.Machine

/-- `JP a16`, R181. -/
def execJp (a16 : Word) (s : State) : Host.Outcome State Fault Refusal :=
  .next (setPc a16 s)

/-- `JP NZ,a16`, R182. -/
def execJpNZ (a16 : Word) (s : State) : Host.Outcome State Fault Refusal :=
  .next (jumpIf .nz a16 s)

/-- `JP Z,a16`, R183. -/
def execJpZ (a16 : Word) (s : State) : Host.Outcome State Fault Refusal :=
  .next (jumpIf .z a16 s)

/-- `JP NC,a16`, R184. -/
def execJpNC (a16 : Word) (s : State) : Host.Outcome State Fault Refusal :=
  .next (jumpIf .nc a16 s)

/-- `JP C,a16`, R185. -/
def execJpC (a16 : Word) (s : State) : Host.Outcome State Fault Refusal :=
  .next (jumpIf .c a16 s)

/-- `JP (HL)`, R186. -/
def execJpHL (s : State) : Host.Outcome State Fault Refusal :=
  .next (setPc (readPair s .hl) s)

/-- `CALL a16`, R188. -/
def execCall (a16 : Word) (s : State) : Host.Outcome State Fault Refusal :=
  .next (callTo a16 s)

/-- `CALL NZ,a16`, R189. -/
def execCallNZ (a16 : Word) (s : State) : Host.Outcome State Fault Refusal :=
  .next (callIf .nz a16 s)

/-- `CALL Z,a16`, R190. -/
def execCallZ (a16 : Word) (s : State) : Host.Outcome State Fault Refusal :=
  .next (callIf .z a16 s)

/-- `CALL NC,a16`, R191. -/
def execCallNC (a16 : Word) (s : State) : Host.Outcome State Fault Refusal :=
  .next (callIf .nc a16 s)

/-- `CALL C,a16`, R192. -/
def execCallC (a16 : Word) (s : State) : Host.Outcome State Fault Refusal :=
  .next (callIf .c a16 s)

/-- `HALT`, R165. -/
def execHalt (s : State) : Host.Outcome State Fault Refusal :=
  .next (haltRun s)

/-- `the extended prefix`, R166. -/
def execPrefixCB (s : State) : Host.Outcome State Fault Refusal :=
  .next (takeFault .unimplementedPrefix s)

end Sys2Proof.Machine
end

