-- ==== Sys2Proof/Machine/LoadStore.lean ====
section
/-! DEFINITION. Loads and stores (spec/44_load_store.md). No flag is read or written, every address is legal. -/

namespace Sys2Proof.Machine

/-- `LD B,d8`, R200. -/
def execLdB (d8 : Byte) (s : State) : Host.Outcome State Fault Refusal :=
  .next (writeReg .b d8 s)

/-- `LD C,d8`, R201. -/
def execLdC (d8 : Byte) (s : State) : Host.Outcome State Fault Refusal :=
  .next (writeReg .c d8 s)

/-- `LD D,d8`, R202. -/
def execLdD (d8 : Byte) (s : State) : Host.Outcome State Fault Refusal :=
  .next (writeReg .d d8 s)

/-- `LD E,d8`, R203. -/
def execLdE (d8 : Byte) (s : State) : Host.Outcome State Fault Refusal :=
  .next (writeReg .e d8 s)

/-- `LD H,d8`, R204. -/
def execLdH (d8 : Byte) (s : State) : Host.Outcome State Fault Refusal :=
  .next (writeReg .h d8 s)

/-- `LD L,d8`, R205. -/
def execLdL (d8 : Byte) (s : State) : Host.Outcome State Fault Refusal :=
  .next (writeReg .l d8 s)

/-- `LD A,d8`, R206. -/
def execLdA (d8 : Byte) (s : State) : Host.Outcome State Fault Refusal :=
  .next (writeReg .a d8 s)

/-- `LD (BC),A`, R207. -/
def execLdMemBCA (s : State) : Host.Outcome State Fault Refusal :=
  .next (storeA .bc s)

/-- `LD (DE),A`, R208. -/
def execLdMemDEA (s : State) : Host.Outcome State Fault Refusal :=
  .next (storeA .de s)

/-- `LD (HL),A`, R209. -/
def execLdMemHLA (s : State) : Host.Outcome State Fault Refusal :=
  .next (storeA .hl s)

/-- `LD A,(BC)`, R210. -/
def execLdAMemBC (s : State) : Host.Outcome State Fault Refusal :=
  .next (loadA .bc s)

/-- `LD A,(DE)`, R211. -/
def execLdAMemDE (s : State) : Host.Outcome State Fault Refusal :=
  .next (loadA .de s)

/-- `LD A,(HL)`, R212. -/
def execLdAMemHL (s : State) : Host.Outcome State Fault Refusal :=
  .next (loadA .hl s)

/-- `LD (a16),SP`, R213. -/
def execLdMemA16SP (a16 : Word) (s : State) : Host.Outcome State Fault Refusal :=
  .next (memWrite16 a16 s.sp s)

end Sys2Proof.Machine
end

