-- ==== Sys2Proof/Machine/Dispatch.lean ====
section
/-! DEFINITION. The dispatch: one arm per row of spec/opcode_table.json (42_dispatch_loop.md R161). -/

namespace Sys2Proof.Machine

def exec (i : Instr) (s : State) : Host.Outcome State Fault Refusal :=
  match i with
  | .addAB => Sys2Proof.Machine.execAddAB s
  | .addAC => Sys2Proof.Machine.execAddAC s
  | .addAD => Sys2Proof.Machine.execAddAD s
  | .addAE => Sys2Proof.Machine.execAddAE s
  | .addAH => Sys2Proof.Machine.execAddAH s
  | .addAL => Sys2Proof.Machine.execAddAL s
  | .addAMemHL => Sys2Proof.Machine.execAddAMemHL s
  | .addAA => Sys2Proof.Machine.execAddAA s
  | .adcAB => Sys2Proof.Machine.execAdcAB s
  | .adcAC => Sys2Proof.Machine.execAdcAC s
  | .adcAD => Sys2Proof.Machine.execAdcAD s
  | .adcAE => Sys2Proof.Machine.execAdcAE s
  | .adcAH => Sys2Proof.Machine.execAdcAH s
  | .adcAL => Sys2Proof.Machine.execAdcAL s
  | .adcAMemHL => Sys2Proof.Machine.execAdcAMemHL s
  | .adcAA => Sys2Proof.Machine.execAdcAA s
  | .andAB => Sys2Proof.Machine.execAndAB s
  | .andAC => Sys2Proof.Machine.execAndAC s
  | .andAD => Sys2Proof.Machine.execAndAD s
  | .andAE => Sys2Proof.Machine.execAndAE s
  | .andAH => Sys2Proof.Machine.execAndAH s
  | .andAL => Sys2Proof.Machine.execAndAL s
  | .andAMemHL => Sys2Proof.Machine.execAndAMemHL s
  | .andAA => Sys2Proof.Machine.execAndAA s
  | .cpAB => Sys2Proof.Machine.execCpAB s
  | .cpAC => Sys2Proof.Machine.execCpAC s
  | .cpAD => Sys2Proof.Machine.execCpAD s
  | .cpAE => Sys2Proof.Machine.execCpAE s
  | .cpAH => Sys2Proof.Machine.execCpAH s
  | .cpAL => Sys2Proof.Machine.execCpAL s
  | .cpAMemHL => Sys2Proof.Machine.execCpAMemHL s
  | .cpAA => Sys2Proof.Machine.execCpAA s
  | .incB => Sys2Proof.Machine.execIncB s
  | .incC => Sys2Proof.Machine.execIncC s
  | .incD => Sys2Proof.Machine.execIncD s
  | .incE => Sys2Proof.Machine.execIncE s
  | .incH => Sys2Proof.Machine.execIncH s
  | .incL => Sys2Proof.Machine.execIncL s
  | .incA => Sys2Proof.Machine.execIncA s
  | .daa => Sys2Proof.Machine.execDaa s
  | .cpl => Sys2Proof.Machine.execCpl s
  | .ccf => Sys2Proof.Machine.execCcf s
  | .ldB d8 => Sys2Proof.Machine.execLdB d8 s
  | .ldC d8 => Sys2Proof.Machine.execLdC d8 s
  | .ldD d8 => Sys2Proof.Machine.execLdD d8 s
  | .ldE d8 => Sys2Proof.Machine.execLdE d8 s
  | .ldH d8 => Sys2Proof.Machine.execLdH d8 s
  | .ldL d8 => Sys2Proof.Machine.execLdL d8 s
  | .ldA d8 => Sys2Proof.Machine.execLdA d8 s
  | .ldMemBCA => Sys2Proof.Machine.execLdMemBCA s
  | .ldMemDEA => Sys2Proof.Machine.execLdMemDEA s
  | .ldMemHLA => Sys2Proof.Machine.execLdMemHLA s
  | .ldAMemBC => Sys2Proof.Machine.execLdAMemBC s
  | .ldAMemDE => Sys2Proof.Machine.execLdAMemDE s
  | .ldAMemHL => Sys2Proof.Machine.execLdAMemHL s
  | .ldMemA16SP a16 => Sys2Proof.Machine.execLdMemA16SP a16 s
  | .jp a16 => Sys2Proof.Machine.execJp a16 s
  | .jpNZ a16 => Sys2Proof.Machine.execJpNZ a16 s
  | .jpZ a16 => Sys2Proof.Machine.execJpZ a16 s
  | .jpNC a16 => Sys2Proof.Machine.execJpNC a16 s
  | .jpC a16 => Sys2Proof.Machine.execJpC a16 s
  | .jpHL => Sys2Proof.Machine.execJpHL s
  | .call a16 => Sys2Proof.Machine.execCall a16 s
  | .callNZ a16 => Sys2Proof.Machine.execCallNZ a16 s
  | .callZ a16 => Sys2Proof.Machine.execCallZ a16 s
  | .callNC a16 => Sys2Proof.Machine.execCallNC a16 s
  | .callC a16 => Sys2Proof.Machine.execCallC a16 s
  | .halt => Sys2Proof.Machine.execHalt s
  | .prefixCB => Sys2Proof.Machine.execPrefixCB s

end Sys2Proof.Machine
end

