-- ==== Sys2Proof/Machine/Fetch.lean ====
section
/-! DEFINITION. Instruction fetch (spec/42_dispatch_loop.md R161, R162): byte by byte from program
space, `pc` advancing past each byte, operand bytes only after the opcode byte has been found in the
table; and how an instruction is placed where the next step fetches it. -/

namespace Sys2Proof.Machine

/-- One fetch: the byte of program space at `pc`, and `pc` advanced by one modulo 65536 (10_state.md R20, R21). -/
def fetchByte (s : State) : Byte × State := (progRead s s.pc, setPc (s.pc + 1) s)

/-- Opcode fetch, table lookup, operand fetch (R161). `none` when the opcode byte is unimplemented; then
that one byte is all that was consumed (R164). -/
def fetchInstr (s : State) : Option Instr × State :=
  let op := fetchByte s
  match decodeOpcode op.1 with
  | none => (none, op.2)
  | some (.op i) => (some i, op.2)
  | some (.d8 mk) =>
    let d8 := fetchByte op.2
    (some (mk d8.1), d8.2)
  | some (.a16 mk) =>
    let lo := fetchByte op.2
    let hi := fetchByte lo.2
    (some (mk (joinBytes hi.1 lo.1)), hi.2)

/-- The three bytes of program space from `pc` on, the addresses wrapping: as many as the longest
instruction has (30_encoding.md R60). -/
def fetchWindow (s : State) : List Byte :=
  [progRead s s.pc, progRead s (s.pc + 1), progRead s (s.pc + 2)]

/-- A list of bytes stored from an address on, the addresses wrapping. -/
def Memory.writeBytes (m : Memory) (a : Word) : List Byte → Memory
  | [] => m
  | v :: rest => Memory.writeBytes (m.write a v) (a + 1) rest

/-- Program space with an instruction of the opcode table placed at `pc`, and the run state Running, the
two things a step needs to fetch and run it (log 7). -/
def placeTableWord (s : State) (nbits w : Nat) : State :=
  { s with ps := Memory.writeBytes s.ps s.pc (tableWordBytes nbits w), run := .running }

end Sys2Proof.Machine
end

