-- ==== Sys2Proof/Machine/Step.lean ====
section
/-! DEFINITION. One step of the dispatch loop (spec/42_dispatch_loop.md R161, R170). -/

namespace Sys2Proof.Machine

/-- One step (R161): a running machine fetches an instruction and executes it; an unimplemented opcode
byte raises the fault with cause 1 (R164), whose entry is a next state (60_exceptions.md R225). A state
that is halted or faulted has no step (R170): the run is over. -/
def step (s : State) : Host.Outcome State Fault Refusal :=
  match s.run with
  | .halted => .fault .runHalted
  | .faulted cause => .fault (.runFaulted cause)
  | .running =>
    match fetchInstr s with
    | (some i, s') => exec i s'
    | (none, s') => .next (takeFault .unimplementedOpcode s')

/-- `s` with an instruction of the opcode table where the next step fetches (the host's question). -/
def State.withFetchWord (s : State) (nbits w : Nat) : State := placeTableWord s nbits w

end Sys2Proof.Machine
end

