-- ==== Sys2Proof/Machine/Launch.lean ====
section
/-! DEFINITION. What the environment does to the machine: reset, launch and the status outputs
(spec/70_reset_and_hazards.md R240, R241, R244). It acts only outside a run, but for reset (R56, R243). -/

namespace Sys2Proof.Machine

/-- The reset event (R240, 10_state.md R29), in any run state: every register at its reset value, `run`
Running; neither memory space is touched. -/
def State.resetEvent (s : State) : State :=
  { State.reset with sp := s.cfg.spReset, ps := s.ps, ws := s.ws, cfg := s.cfg }

/-- One value the launch may set (R30, R241); a pair decomposes (10_state.md R13). `run` is not among them. -/
inductive LaunchWrite where
  | reg (r : Reg) (v : Byte)
  | pair (p : Pair) (v : Word)
  | pc (v : Word)
  | sp (v : Word)
  deriving DecidableEq, Repr

/-- The effect of one launch write; a value for `f` has its low nibble forced to 0 (R16, R241). -/
def applyLaunchWrite (s : State) : LaunchWrite → State
  | .reg r v => writeReg r v s
  | .pair p v => writePair p v s
  | .pc v => setPc v s
  | .sp v => setSp v s

/-- The launch (R241): both images, each a total function of the address, and any of the registers. -/
def State.launch (ps ws : Word → Byte) (writes : List LaunchWrite) (s : State) : State :=
  writes.foldl applyLaunchWrite { s with ps := Memory.ofImage ps, ws := Memory.ofImage ws }

/-- A buffer of at most 65536 bytes as a total image; the environment chooses what follows it (R241). -/
def imageOfBytes (bytes : List Byte) (rest : Word → Byte) (a : Word) : Byte :=
  (bytes[a.toNat]?).getD (rest a)

/-- The number of a fault cause (60_exceptions.md R220). -/
def FaultCause.number : FaultCause → Nat
  | .unimplementedOpcode => 1
  | .unimplementedPrefix => 2

/-- Status output `halted` (R240). -/
def State.isHalted (s : State) : Bool := s.run = .halted

/-- Status output `faulted` (R240). -/
def State.isFaulted (s : State) : Bool :=
  match s.run with
  | .faulted _ => true
  | .running => false
  | .halted => false

/-- Status output `cause` (R240): 0 when there is no fault. -/
def State.cause (s : State) : Nat :=
  match s.run with
  | .faulted cause => cause.number
  | .running => 0
  | .halted => 0

end Sys2Proof.Machine
end

