-- ==== Sys2Proof/Safety.lean ====
section
/-! DEFINITION. What claims about states and runs are stated with: the invariant of the state
(spec/10_state.md R32) and the end of a run (42_dispatch_loop.md R167). -/

namespace Sys2Proof

open Sys2Proof.Machine

/-- The state invariant (R32): the low nibble of `f` is zero, and both spaces are in canonical form (so
every byte has one representation). The widths of R32 are carried by the types. -/
structure Machine.State.Inv (s : State) : Prop where
  flagsLow : s.f &&& 0x0F = 0
  psWf : Memory.wf s.ps
  wsWf : Memory.wf s.ws

/-- A run has ended (R167): the run state is not Running. -/
def runEnded (s : State) : Prop := s.run ≠ .running

/-- A run has ended normally (R167). -/
def runEndedNormally (s : State) : Prop := s.run = .halted

/-- A run has ended abnormally (R167). -/
def runEndedAbnormally (s : State) : Prop := ∃ cause, s.run = .faulted cause

/-- A state the machine can be in: the launch of a reset state, or what a step leaves of one (R167). -/
inductive Reachable : State → Prop where
  | launched (ps ws : Word → Byte) (writes : List LaunchWrite) (s : State) :
      Reachable (State.launch ps ws writes (State.resetEvent s))
  | stepped (s t : State) : Reachable s → step s = .next t → Reachable t

end Sys2Proof
end

