-- ==== Sys2Proof/Certificates/Slice0/Obligations.lean ====
section
/-! DEFINITION. The statements for the provers, and the tables of forms they range over. A table names the
instructions of one family with the operand each reads (or the register each writes) written out through
the fields of State, so that a statement does not lean on the model's operand functions. -/

namespace Sys2Proof.Claims

open Sys2Proof Sys2Proof.Machine

/-- The byte of working space at the pair HL. -/
def atHL (s : State) : Byte := s.ws.read (joinBytes s.h s.l)

/-- The eight ALU operands, in the order of the r-field (30_encoding.md R66). -/
def sources : List (State → Byte) :=
  [fun s => s.b, fun s => s.c, fun s => s.d, fun s => s.e, fun s => s.h, fun s => s.l, atHL, fun s => s.a]

/-- `ADD A,r` in all eight forms, each with its operand. -/
def addForms : List (Instr × (State → Byte)) :=
  [.addAB, .addAC, .addAD, .addAE, .addAH, .addAL, .addAMemHL, .addAA].zip sources

/-- `ADC A,r` in all eight forms, each with its operand. -/
def adcForms : List (Instr × (State → Byte)) :=
  [.adcAB, .adcAC, .adcAD, .adcAE, .adcAH, .adcAL, .adcAMemHL, .adcAA].zip sources

/-- `AND A,r` in all eight forms, each with its operand. -/
def andForms : List (Instr × (State → Byte)) :=
  [.andAB, .andAC, .andAD, .andAE, .andAH, .andAL, .andAMemHL, .andAA].zip sources

/-- `CP A,r` in all eight forms, each with its operand. -/
def cpForms : List (Instr × (State → Byte)) :=
  [.cpAB, .cpAC, .cpAD, .cpAE, .cpAH, .cpAL, .cpAMemHL, .cpAA].zip sources

/-- The seven registers an instruction can name as destination: how each is read and replaced. -/
def destinations : List ((State → Byte) × (Byte → State → State)) :=
  [(fun s => s.b, fun v s => { s with b := v }), (fun s => s.c, fun v s => { s with c := v }),
   (fun s => s.d, fun v s => { s with d := v }), (fun s => s.e, fun v s => { s with e := v }),
   (fun s => s.h, fun v s => { s with h := v }), (fun s => s.l, fun v s => { s with l := v }),
   (fun s => s.a, fun v s => { s with a := v })]

/-- `INC r` in all seven forms, each with its register. -/
def incForms : List (Instr × (State → Byte) × (Byte → State → State)) :=
  [.incB, .incC, .incD, .incE, .incH, .incL, .incA].zip destinations

/-- `LD r,d8` in all seven forms, each with its register. -/
def loadImmediateForms : List ((Byte → Instr) × (State → Byte) × (Byte → State → State)) :=
  [.ldB, .ldC, .ldD, .ldE, .ldH, .ldL, .ldA].zip destinations

/-- The three pairs, each computed from its halves (10_state.md R12). -/
def pairs : List (State → Word) :=
  [fun s => joinBytes s.b s.c, fun s => joinBytes s.d s.e, fun s => joinBytes s.h s.l]

/-- `LD (rr),A` in all three forms, each with the address stored to. -/
def storeForms : List (Instr × (State → Word)) := [.ldMemBCA, .ldMemDEA, .ldMemHLA].zip pairs

/-- `LD A,(rr)` in all three forms, each with the address read. -/
def loadForms : List (Instr × (State → Word)) := [.ldAMemBC, .ldAMemDE, .ldAMemHL].zip pairs

/-- The four conditions (43_control_transfer.md R180), each on the flag byte. -/
def conditions : List (Byte → Prop) :=
  [fun f => flagZ f = false, fun f => flagZ f = true, fun f => flagC f = false, fun f => flagC f = true]

/-- `JP cc,a16` in all four forms, each with its condition. -/
def jumpForms : List ((Word → Instr) × (Byte → Prop)) := [.jpNZ, .jpZ, .jpNC, .jpC].zip conditions

/-- `CALL cc,a16` in all four forms, each with its condition. -/
def callForms : List ((Word → Instr) × (Byte → Prop)) := [.callNZ, .callZ, .callNC, .callC].zip conditions

/-- The Half-Carry test of Add (40_alu_flag_engine.md R81) on exact numbers: `acc` is the accumulator
before, `res` the truncated sum, `b` the second operand. -/
def halfCarryTest (mode : HcMode) (acc res b : Nat) : Prop :=
  match mode with
  | .postUpdate => res % 16 + b % 16 > 15
  | .preUpdate => acc % 16 + b % 16 > 15

/-- A flag byte has exactly these flags and a zero low nibble. -/
def FlagsAre (f : Byte) (z n h c : Prop) : Prop :=
  (flagZ f = true ↔ z) ∧ (flagN f = true ↔ n) ∧ (flagH f = true ↔ h) ∧ (flagC f = true ↔ c) ∧
    f &&& 0x0F = 0

/-- Carry of a flag byte as 0 or 1. -/
def carryOf (f : Byte) : Nat := f.toNat / 16 % 2

/-- The state `t` differs from `s` at most in the accumulator and the flags. -/
def OnlyAF (s t : State) : Prop := t = { s with a := t.a, f := t.f }

/-- What a taken call does, given the address it returns to: the target in `pc`, `sp` down by 2, the high
byte of the return address at `sp - 1` and the low byte at `sp - 2`, nothing else. -/
def IsCall (s t : State) (target ret : Word) : Prop :=
  t = { s with pc := target, sp := s.sp - 2, ws := t.ws } ∧
  (∀ x, t.ws.read x =
    if x = s.sp - 1 then BitVec.ofNat 8 (ret.toNat / 256)
    else if x = s.sp - 2 then BitVec.ofNat 8 (ret.toNat % 256)
    else s.ws.read x) ∧
  memRead16 t t.sp = ret

/-- An outcome with a change applied to its next state. -/
def mapNext (g : State → State) : Host.Outcome State Fault Refusal → Host.Outcome State Fault Refusal
  | .next t => .next (g t)
  | .fault r => .fault r
  | .refused r => .refused r

/-- The instructions that write flags (10_state.md R17). -/
def writesFlags : Instr → Bool
  | .addAB | .addAC | .addAD | .addAE | .addAH | .addAL | .addAMemHL | .addAA
  | .adcAB | .adcAC | .adcAD | .adcAE | .adcAH | .adcAL | .adcAMemHL | .adcAA
  | .andAB | .andAC | .andAD | .andAE | .andAH | .andAL | .andAMemHL | .andAA
  | .cpAB | .cpAC | .cpAD | .cpAE | .cpAH | .cpAL | .cpAMemHL | .cpAA
  | .incB | .incC | .incD | .incE | .incH | .incL | .incA
  | .daa | .cpl | .ccf => true
  | _ => false

/-- The instructions that are an `INC`. -/
def isInc : Instr → Bool
  | .incB | .incC | .incD | .incE | .incH | .incL | .incA => true
  | _ => false

/-- The instruction is a call, and it is taken in a state with this flag byte (R180, R188 to R192). -/
def callTaken (f : Byte) : Instr → Bool
  | .call _ => true
  | .callNZ _ => !flagZ f
  | .callZ _ => flagZ f
  | .callNC _ => !flagC f
  | .callC _ => flagC f
  | _ => false

/-- Where `pc` is after an instruction that executes with `pc` past its bytes (10_state.md R20, 43_control_transfer.md
R181 to R192): a jump or call taken goes to its target, everything else stays. -/
def nextPc (s : State) : Instr → Word
  | .jp target | .call target => target
  | .jpNZ target | .callNZ target => if flagZ s.f = false then target else s.pc
  | .jpZ target | .callZ target => if flagZ s.f = true then target else s.pc
  | .jpNC target | .callNC target => if flagC s.f = false then target else s.pc
  | .jpC target | .callC target => if flagC s.f = true then target else s.pc
  | .jpHL => joinBytes s.h s.l
  | .addAB | .addAC | .addAD | .addAE | .addAH | .addAL | .addAMemHL | .addAA
  | .adcAB | .adcAC | .adcAD | .adcAE | .adcAH | .adcAL | .adcAMemHL | .adcAA
  | .andAB | .andAC | .andAD | .andAE | .andAH | .andAL | .andAMemHL | .andAA
  | .cpAB | .cpAC | .cpAD | .cpAE | .cpAH | .cpAL | .cpAMemHL | .cpAA
  | .incB | .incC | .incD | .incE | .incH | .incL | .incA
  | .daa | .cpl | .ccf | .halt | .prefixCB
  | .ldMemBCA | .ldMemDEA | .ldMemHLA | .ldAMemBC | .ldAMemDE | .ldAMemHL | .ldMemA16SP _
  | .ldB _ | .ldC _ | .ldD _ | .ldE _ | .ldH _ | .ldL _ | .ldA _ => s.pc

/-- The instruction is a call, conditional or not. -/
def isCall : Instr → Bool
  | .call _ | .callNZ _ | .callZ _ | .callNC _ | .callC _ => true
  | _ => false

/-- The instruction stores to working space without pushing (20_memory.md R42). -/
def isStore : Instr → Bool
  | .ldMemBCA | .ldMemDEA | .ldMemHLA | .ldMemA16SP _ => true
  | _ => false

/-- The instruction reads working space (20_memory.md R42). -/
def readsWorkingSpace : Instr → Bool
  | .addAMemHL | .adcAMemHL | .andAMemHL | .cpAMemHL | .ldAMemBC | .ldAMemDE | .ldAMemHL => true
  | _ => false

/-- The one register other than `f` that an instruction writes, if there is one (10_state.md, table
after R14). -/
def writtenReg : Instr → Option Reg
  | .incB | .ldB _ => some .b
  | .incC | .ldC _ => some .c
  | .incD | .ldD _ => some .d
  | .incE | .ldE _ => some .e
  | .incH | .ldH _ => some .h
  | .incL | .ldL _ => some .l
  | .incA | .ldA _ | .daa | .cpl | .ldAMemBC | .ldAMemDE | .ldAMemHL => some .a
  | .addAB | .addAC | .addAD | .addAE | .addAH | .addAL | .addAMemHL | .addAA
  | .adcAB | .adcAC | .adcAD | .adcAE | .adcAH | .adcAL | .adcAMemHL | .adcAA
  | .andAB | .andAC | .andAD | .andAE | .andAH | .andAL | .andAMemHL | .andAA => some .a
  | .cpAB | .cpAC | .cpAD | .cpAE | .cpAH | .cpAL | .cpAMemHL | .cpAA
  | .ccf | .halt | .prefixCB | .ldMemBCA | .ldMemDEA | .ldMemHLA | .ldMemA16SP _
  | .jp _ | .jpNZ _ | .jpZ _ | .jpNC _ | .jpC _ | .jpHL
  | .call _ | .callNZ _ | .callZ _ | .callNC _ | .callC _ => none

/-- The flags an instruction reads (10_state.md R18). -/
def flagsRead : Instr → List (Byte → Bool)
  | .adcAB | .adcAC | .adcAD | .adcAE | .adcAH | .adcAL | .adcAMemHL | .adcAA => [flagC]
  | .daa => [flagN, flagH, flagC]
  | .ccf => [flagC]
  | .jpNZ _ | .jpZ _ | .callNZ _ | .callZ _ => [flagZ]
  | .jpNC _ | .jpC _ | .callNC _ | .callC _ => [flagC]
  | .addAB | .addAC | .addAD | .addAE | .addAH | .addAL | .addAMemHL | .addAA
  | .andAB | .andAC | .andAD | .andAE | .andAH | .andAL | .andAMemHL | .andAA
  | .cpAB | .cpAC | .cpAD | .cpAE | .cpAH | .cpAL | .cpAMemHL | .cpAA
  | .incB | .incC | .incD | .incE | .incH | .incL | .incA
  | .cpl | .halt | .prefixCB | .jp _ | .jpHL | .call _
  | .ldMemBCA | .ldMemDEA | .ldMemHLA | .ldAMemBC | .ldAMemDE | .ldAMemHL | .ldMemA16SP _
  | .ldB _ | .ldC _ | .ldD _ | .ldE _ | .ldH _ | .ldL _ | .ldA _ => []

/-- The instruction writes some flags and passes others through (10_state.md R17): `INC`, `CPL`, `CCF`. -/
def passesFlags (i : Instr) : Bool := isInc i || i == .cpl || i == .ccf

/-- How many bytes of program space a step fetches from `pc` on (42_dispatch_loop.md R161): the length of
the instruction there, or the one faulting byte. -/
def fetchedBytes (s : State) : Nat :=
  match decode [s.ps.read s.pc, s.ps.read (s.pc + 1), s.ps.read (s.pc + 2)] with
  | .ok (i, _) => i.length
  | .error _ => 1

/-- The byte stored in a register. -/
def held (s : State) : Reg → Byte
  | .b => s.b
  | .c => s.c
  | .d => s.d
  | .e => s.e
  | .h => s.h
  | .l => s.l
  | .a => s.a
  | .f => s.f

/-- A launch value that sets this register, by its name or as a half of a pair (10_state.md R12, R13). -/
def setsReg : LaunchWrite → Reg → Bool
  | .reg r _, q => q == r
  | .pair .bc _, q => q == .b || q == .c
  | .pair .de _, q => q == .d || q == .e
  | .pair .hl _, q => q == .h || q == .l
  | .pc _, _ => false
  | .sp _, _ => false

/-- A launch value of `pc`. -/
def setsPc : LaunchWrite → Bool
  | .pc _ => true
  | .reg _ _ => false
  | .pair _ _ => false
  | .sp _ => false

/-- A launch value of `sp`. -/
def setsSp : LaunchWrite → Bool
  | .sp _ => true
  | .reg _ _ => false
  | .pair _ _ => false
  | .pc _ => false

/-- The 187 unimplemented opcode bytes, as the ranges of 30_encoding.md R69. -/
def unimplementedRanges : List (Nat × Nat) :=
  [(0x00, 0x01), (0x03, 0x03), (0x05, 0x05), (0x07, 0x07), (0x09, 0x09), (0x0B, 0x0B), (0x0D, 0x0D),
   (0x0F, 0x11), (0x13, 0x13), (0x15, 0x15), (0x17, 0x19), (0x1B, 0x1B), (0x1D, 0x1D), (0x1F, 0x23),
   (0x25, 0x25), (0x28, 0x2B), (0x2D, 0x2D), (0x30, 0x3B), (0x3D, 0x3D), (0x40, 0x75)] ++
  [(0x78, 0x7D), (0x7F, 0x7F), (0x90, 0x9F), (0xA8, 0xB7), (0xC0, 0xC1), (0xC5, 0xC9), (0xCE, 0xD1),
   (0xD3, 0xD3), (0xD5, 0xD9), (0xDB, 0xDB), (0xDD, 0xE8), (0xEA, 0xFF)]

/-- The byte is in one of those ranges. -/
def unimplemented (op : Byte) : Prop :=
  ∃ range ∈ unimplementedRanges, range.1 ≤ op.toNat ∧ op.toNat ≤ range.2

/-- The BCD byte of a number below 100: tens in the high nibble, units in the low nibble. -/
def bcd (n : Nat) : Byte := BitVec.ofNat 8 (n / 10 * 16 + n % 10)

end Sys2Proof.Claims

open Sys2Proof Sys2Proof.Machine Sys2Proof.Claims

/-! ## Flags and the ALU engine -/

/-- 10_state.md R15: the four flags are bits 7, 6, 5, 4 of `f` (masks 0x80, 0x40, 0x20, 0x10). -/
def Obligations.FlagBitsOfF : Prop :=
  ∀ f : Byte,
    (flagZ f = true ↔ f.toNat / 128 % 2 = 1) ∧ (flagN f = true ↔ f.toNat / 64 % 2 = 1) ∧
    (flagH f = true ↔ f.toNat / 32 % 2 = 1) ∧ (flagC f = true ↔ f.toNat / 16 % 2 = 1) ∧
    (f &&& 0x0F = 0 →
      f.toNat = (flagZ f).toNat * 0x80 + (flagN f).toNat * 0x40 + (flagH f).toNat * 0x20
        + (flagC f).toNat * 0x10)

/-- 40_alu_flag_engine.md R81 and R92: the result and the four flags of Add, `b` in 0 to 256, with the
Half-Carry test of each `HC_MODE`. -/
def Obligations.AddResultAndFlags : Prop :=
  ∀ (mode : HcMode) (a : Byte) (b : Nat), b ≤ 256 →
    (aluAdd mode a b).1.toNat = (a.toNat + b) % 256 ∧
    FlagsAre (aluAdd mode a b).2 ((a.toNat + b) % 256 = 0) False
      (halfCarryTest mode a.toNat ((a.toNat + b) % 256) b) (a.toNat + b > 255)

/-- 40_alu_flag_engine.md section 3 (R82, with decision D9: the incremented operand is not truncated):
Add-with-carry is the sum with the carry in, its Half-Carry test on the incremented operand. -/
def Obligations.AdcResultAndFlags : Prop :=
  ∀ (mode : HcMode) (a b f : Byte),
    (aluAdc mode a b f).1.toNat = (a.toNat + b.toNat + carryOf f) % 256 ∧
    FlagsAre (aluAdc mode a b f).2 ((a.toNat + b.toNat + carryOf f) % 256 = 0) False
      (halfCarryTest mode a.toNat ((a.toNat + b.toNat + carryOf f) % 256) (b.toNat + carryOf f))
      (a.toNat + b.toNat + carryOf f > 255)

/-- 40_alu_flag_engine.md R83: bitwise AND bit by bit, Half-Carry set, Subtract and Carry cleared. -/
def Obligations.AndResultAndFlags : Prop :=
  ∀ a b : Byte,
    (∀ k, k < 8 → (aluAnd a b).1.getLsbD k = (a.getLsbD k && b.getLsbD k)) ∧
    FlagsAre (aluAnd a b).2 (∀ k, k < 8 → (a.getLsbD k && b.getLsbD k) = false) False True False

/-- 40_alu_flag_engine.md section 5 (R84, with decision D10): Decimal Adjust. Additive branch: 0x60 is
added and Carry set iff Carry was set or the accumulator exceeds 0x99, 0x06 is added iff Half-Carry was set
or the low nibble exceeds 9. Subtractive branch: 0x60 for Carry and 0x06 for Half-Carry are subtracted. -/
def Obligations.DaaResultAndFlags : Prop :=
  ∀ a f : Byte,
    (flagN f = false →
      (aluDaa a f).1.toNat =
        (a.toNat + (if flagC f = true ∨ a.toNat > 0x99 then 0x60 else 0)
          + (if flagH f = true ∨ a.toNat % 16 > 9 then 0x06 else 0)) % 256 ∧
      FlagsAre (aluDaa a f).2 ((aluDaa a f).1 = 0) False False (flagC f = true ∨ a.toNat > 0x99)) ∧
    (flagN f = true →
      (aluDaa a f).1.toNat =
        (a.toNat + 256 - (if flagC f = true then 0x60 else 0) - (if flagH f = true then 0x06 else 0)) % 256 ∧
      FlagsAre (aluDaa a f).2 ((aluDaa a f).1 = 0) True False (flagC f = true))

/-- 40_alu_flag_engine.md section 5 (R94, derived there; Decimal Adjust with decision D10): with
`HC_MODE = PRE_UPDATE`, Add of two BCD bytes and then Decimal Adjust give the BCD sum modulo 100 with Carry the
decimal carry. -/
def Obligations.BcdAdditionIsCorrectPreUpdate : Prop :=
  ∀ x y : Nat, x < 100 → y < 100 →
    let sum := aluAdd .preUpdate (bcd x) (bcd y).toNat
    (aluDaa sum.1 sum.2).1 = bcd ((x + y) % 100) ∧ (flagC (aluDaa sum.1 sum.2).2 = true ↔ x + y > 99)

/-- 40_alu_flag_engine.md section 5 (R94, derived there; Decimal Adjust with decision D10), Subtract clear.
When the first application leaves both nibbles at most 9 and Carry clear, a second changes nothing. When it
leaves Carry set, a second always changes the accumulator: it adds 0x60 again, and nothing more when the low
nibble is at most 9. -/
def Obligations.DaaIdempotentWhenCarryClear : Prop :=
  (∀ a f : Byte, flagN f = false →
    (aluDaa a f).1.toNat % 16 ≤ 9 → (aluDaa a f).1.toNat / 16 ≤ 9 → flagC (aluDaa a f).2 = false →
    aluDaa (aluDaa a f).1 (aluDaa a f).2 = aluDaa a f) ∧
  (∀ a f : Byte, flagN f = false → flagC (aluDaa a f).2 = true →
    (aluDaa (aluDaa a f).1 (aluDaa a f).2).1 ≠ (aluDaa a f).1 ∧
    ((aluDaa a f).1.toNat % 16 ≤ 9 →
      (aluDaa (aluDaa a f).1 (aluDaa a f).2).1 = (aluDaa a f).1 + 0x60)) ∧
  aluDaa 0x9A 0x00 = (0x00, 0x90) ∧ aluDaa 0x00 0x90 = (0x60, 0x10)

/-- 40_alu_flag_engine.md section 6 (R85, with decisions D6 and D7): the reference compare. Equal values
give 0xC0; otherwise Zero and Subtract are clear, Carry means `v` not 0 and less than `a`, and Half-Carry is
the test of Add on the negated operand. -/
def Obligations.CompareReferenceFlags : Prop :=
  ∀ (mode : HcMode) (a v : Byte),
    (a = v → compareReference mode a v = 0xC0) ∧
    (a ≠ v → FlagsAre (compareReference mode a v) False False
      (halfCarryTest mode a.toNat ((a.toNat + 256 - v.toNat) % 256) ((256 - v.toNat) % 256))
      (v.toNat ≠ 0 ∧ v.toNat < a.toNat))

/-- 40_alu_flag_engine.md section 6 (R86, with decision D8, log 8): the corrected compare, the flags of `a - v`. -/
def Obligations.CompareCorrectedFlags : Prop :=
  ∀ a v : Byte,
    FlagsAre (compareCorrected a v) (a = v) True (a.toNat % 16 < v.toNat % 16) (a.toNat < v.toNat)

/-- 40_alu_flag_engine.md R87: Complement inverts the accumulator, sets Subtract and Half-Carry, leaves
Zero and Carry. -/
def Obligations.ComplementResultAndFlags : Prop :=
  ∀ a f : Byte,
    (aluComplement a f).1.toNat = 255 - a.toNat ∧
    flagZ (aluComplement a f).2 = flagZ f ∧ flagN (aluComplement a f).2 = true ∧
    flagH (aluComplement a f).2 = true ∧ flagC (aluComplement a f).2 = flagC f ∧
    (aluComplement a f).2 &&& 0x0F = f &&& 0x0F

/-- 40_alu_flag_engine.md R89: Increment, with Half-Carry from the value before, Carry untouched. -/
def Obligations.IncrementResultAndFlags : Prop :=
  ∀ v f : Byte,
    (aluIncrement v f).1.toNat = (v.toNat + 1) % 256 ∧
    FlagsAre (aluIncrement v f).2 ((v.toNat + 1) % 256 = 0) False (v.toNat % 16 + 1 > 15) (flagC f = true)

/-! ## The ALU instructions, result and frame -/

/-- 41_alu_instructions.md section 1: `ADD A,r` in its eight forms completes with the sum in the accumulator
and the four flags of Add; nothing else changes. -/
def Obligations.AddInstructions : Prop :=
  ∀ form ∈ addForms, ∀ s : State, ∃ t, exec form.1 s = .next t ∧
    t.a.toNat = (s.a.toNat + (form.2 s).toNat) % 256 ∧
    FlagsAre t.f ((s.a.toNat + (form.2 s).toNat) % 256 = 0) False
      (halfCarryTest s.cfg.hcMode s.a.toNat t.a.toNat (form.2 s).toNat)
      (s.a.toNat + (form.2 s).toNat > 255) ∧
    OnlyAF s t

/-- 41_alu_instructions.md section 2 (R108 to R115, with decision D9: the incremented operand is not
truncated): `ADC A,r` in its eight forms, with the Carry flag as carry in. -/
def Obligations.AdcInstructions : Prop :=
  ∀ form ∈ adcForms, ∀ s : State, ∃ t, exec form.1 s = .next t ∧
    t.a.toNat = (s.a.toNat + (form.2 s).toNat + carryOf s.f) % 256 ∧
    FlagsAre t.f ((s.a.toNat + (form.2 s).toNat + carryOf s.f) % 256 = 0) False
      (halfCarryTest s.cfg.hcMode s.a.toNat t.a.toNat ((form.2 s).toNat + carryOf s.f))
      (s.a.toNat + (form.2 s).toNat + carryOf s.f > 255) ∧
    OnlyAF s t

/-- 41_alu_instructions.md section 3: `AND A,r` in its eight forms. -/
def Obligations.AndInstructions : Prop :=
  ∀ form ∈ andForms, ∀ s : State, ∃ t, exec form.1 s = .next t ∧
    t.a = s.a &&& form.2 s ∧
    FlagsAre t.f (t.a.toNat = 0) False True False ∧
    OnlyAF s t

/-- 41_alu_instructions.md section 4 (R124 to R131, with decisions D6, the 8-bit negation, and D7, the flag
byte 0xC0 on equal values): `CP A,r` in its eight forms under `CP_MODE = REFERENCE` writes the flags only, by
the reference compare. -/
def Obligations.CompareInstructionsReference : Prop :=
  ∀ form ∈ cpForms, ∀ s : State, s.cfg.cpMode = .reference → ∃ t, exec form.1 s = .next t ∧
    (s.a = form.2 s → t.f = 0xC0) ∧
    (s.a ≠ form.2 s → FlagsAre t.f False False
      (halfCarryTest s.cfg.hcMode s.a.toNat ((s.a.toNat + 256 - (form.2 s).toNat) % 256)
        ((256 - (form.2 s).toNat) % 256))
      ((form.2 s).toNat ≠ 0 ∧ (form.2 s).toNat < s.a.toNat)) ∧
    t = { s with f := t.f }

/-- 41_alu_instructions.md section 4 (R124 to R131, with decision D8 for the corrected formula, log 8): `CP A,r`
in its eight forms under `CP_MODE = CORRECTED` writes the flags only, those of `a - v`. -/
def Obligations.CompareInstructionsCorrected : Prop :=
  ∀ form ∈ cpForms, ∀ s : State, s.cfg.cpMode = .corrected → ∃ t, exec form.1 s = .next t ∧
    FlagsAre t.f (s.a = form.2 s) True (s.a.toNat % 16 < (form.2 s).toNat % 16)
      (s.a.toNat < (form.2 s).toNat) ∧
    t = { s with f := t.f }

/-- 41_alu_instructions.md section 5: `INC r` in its seven forms wraps at 256, keeps Carry, and changes its
own register and `f` only. -/
def Obligations.IncInstructions : Prop :=
  ∀ form ∈ incForms, ∀ s : State, ∃ t, exec form.1 s = .next t ∧
    (form.2.1 t).toNat = ((form.2.1 s).toNat + 1) % 256 ∧
    FlagsAre t.f ((form.2.1 t).toNat = 0) False ((form.2.1 s).toNat % 16 = 15) (flagC s.f = true) ∧
    t = { form.2.2 (form.2.1 t) s with f := t.f }

/-- 41_alu_instructions.md section 6 (R139, with decision D10: Subtract kept, both tests on the accumulator on
entry): `DAA` completes with the adjusted accumulator (both branches of Decimal Adjust), Half-Carry cleared,
Carry never cleared; nothing else changes. -/
def Obligations.DaaInstruction : Prop :=
  ∀ s : State, ∃ t, exec .daa s = .next t ∧
    t.a.toNat = (if flagN s.f = true then
      (s.a.toNat + 256 - (if flagC s.f = true then 0x60 else 0) - (if flagH s.f = true then 0x06 else 0)) % 256
    else
      (s.a.toNat + (if flagC s.f = true ∨ s.a.toNat > 0x99 then 0x60 else 0)
        + (if flagH s.f = true ∨ s.a.toNat % 16 > 9 then 0x06 else 0)) % 256) ∧
    FlagsAre t.f (t.a.toNat = 0) (flagN s.f = true) False
      (flagC s.f = true ∨ (flagN s.f = false ∧ s.a.toNat > 0x99)) ∧
    OnlyAF s t

/-- 41_alu_instructions.md section 6: `CPL` inverts the accumulator; Subtract and Half-Carry set, Zero and
Carry kept; nothing else changes. -/
def Obligations.CplInstruction : Prop :=
  ∀ s : State, ∃ t, exec .cpl s = .next t ∧
    t.a.toNat = 255 - s.a.toNat ∧
    FlagsAre t.f (flagZ s.f = true) True True (flagC s.f = true) ∧
    OnlyAF s t

/-- 40_alu_flag_engine.md R88: Flip-Carry toggles Carry and leaves every other flag, the accumulator and
everything else as it was (stated of the instruction `CCF`). -/
def Obligations.FlipCarryTogglesCarryOnly : Prop :=
  ∀ s : State, ∃ t, exec .ccf s = .next t ∧
    FlagsAre t.f (flagZ s.f = true) (flagN s.f = true) (flagH s.f = true) (flagC s.f = false) ∧
    t = { s with f := t.f }

/-! ## HALT, the prefix, control transfer -/

/-- 42_dispatch_loop.md section 3 (R165, with decision D19 for `pc`): `HALT` makes the run state Halted and
changes nothing else. -/
def Obligations.HaltInstruction : Prop :=
  ∀ s : State, exec .halt s = .next { s with run := .halted }

/-- 42_dispatch_loop.md section 3 and 60_exceptions.md section 4 (R166, R225, with decisions D12, D13): the
extended prefix takes the fault with cause 2; nothing but the run state changes. -/
def Obligations.PrefixTakesFaultTwo : Prop :=
  ∀ s : State, exec .prefixCB s = .next { s with run := .faulted .unimplementedPrefix }

/-- 43_control_transfer.md section 2: `JP a16` and `JP (HL)` set `pc` and change nothing else; `JP (HL)`
takes the pair's own value and reads no memory. -/
def Obligations.UnconditionalJumps : Prop :=
  (∀ (s : State) (target : Word), exec (.jp target) s = .next { s with pc := target }) ∧
  ∀ s : State, ∃ t, exec .jpHL s = .next t ∧ t.pc.toNat = s.h.toNat * 256 + s.l.toNat ∧
    t = { s with pc := t.pc }

/-- 43_control_transfer.md R180: the four conditions test Zero clear, Zero set, Carry clear, Carry set on
the flags as they are when the instruction starts, and nothing else. -/
def Obligations.ConditionsTestZeroOrCarry : Prop :=
  ∀ s : State,
    (condHolds s .nz = true ↔ s.f.toNat / 128 % 2 = 0) ∧ (condHolds s .z = true ↔ s.f.toNat / 128 % 2 = 1) ∧
    (condHolds s .nc = true ↔ s.f.toNat / 16 % 2 = 0) ∧ (condHolds s .c = true ↔ s.f.toNat / 16 % 2 = 1)

/-- 43_control_transfer.md section 2: `JP cc,a16` in its four forms jumps when its condition holds and leaves
the whole state as it is (with `pc` past the operand bytes) when it does not. -/
def Obligations.ConditionalJumps : Prop :=
  ∀ form ∈ jumpForms, ∀ (s : State) (target : Word),
    (form.2 s.f → exec (form.1 target) s = .next { s with pc := target }) ∧
    (¬ form.2 s.f → exec (form.1 target) s = .next s)

/-- 43_control_transfer.md sections 3 and 4 (R187 and R188, with decision D11 for the layout): `CALL a16`
pushes the address in `pc`, high byte at `sp - 1` and low byte at `sp - 2`, and jumps; nothing else changes. -/
def Obligations.CallInstruction : Prop :=
  ∀ (s : State) (target : Word), ∃ t, exec (.call target) s = .next t ∧ IsCall s t target s.pc

/-- 43_control_transfer.md section 4: `CALL cc,a16` in its four forms calls when its condition holds and
leaves the whole state as it is when it does not. -/
def Obligations.ConditionalCalls : Prop :=
  ∀ form ∈ callForms, ∀ (s : State) (target : Word),
    (form.2 s.f → ∃ t, exec (form.1 target) s = .next t ∧ IsCall s t target s.pc) ∧
    (¬ form.2 s.f → exec (form.1 target) s = .next s)

/-! ## Loads and stores -/

/-- 44_load_store.md section 1: `LD r,d8` in its seven forms puts the immediate into its register and
changes nothing else. -/
def Obligations.LoadImmediateInstructions : Prop :=
  ∀ form ∈ loadImmediateForms, ∀ (s : State) (d8 : Byte),
    exec (form.1 d8) s = .next (form.2.2 d8 s) ∧ form.2.1 (form.2.2 d8 s) = d8

/-- 44_load_store.md section 2: `LD (rr),A` in its three forms stores the accumulator at the pair's address;
every other byte of working space reads as before, and nothing else changes. -/
def Obligations.StoreAccumulatorInstructions : Prop :=
  ∀ form ∈ storeForms, ∀ s : State, ∃ t, exec form.1 s = .next t ∧
    (∀ x, t.ws.read x = if x = form.2 s then s.a else s.ws.read x) ∧
    t = { s with ws := t.ws }

/-- 44_load_store.md section 3: `LD A,(rr)` in its three forms loads the byte at the pair's address into the
accumulator; flags, memory and all else are unchanged. -/
def Obligations.LoadAccumulatorInstructions : Prop :=
  ∀ form ∈ loadForms, ∀ s : State, exec form.1 s = .next { s with a := s.ws.read (form.2 s) }

/-- 20_memory.md R46: `LD (a16),SP` stores the stack pointer as two little-endian bytes, the second address
wrapping; every other byte reads as before, and nothing else changes. -/
def Obligations.StoreStackPointerLittleEndian : Prop :=
  ∀ (s : State) (a16 : Word), ∃ t, exec (.ldMemA16SP a16) s = .next t ∧
    (∀ x, t.ws.read x =
      if x = a16 then BitVec.ofNat 8 (s.sp.toNat % 256)
      else if x = a16 + 1 then BitVec.ofNat 8 (s.sp.toNat / 256)
      else s.ws.read x) ∧
    t = { s with ws := t.ws }

/-! ## Encoding -/

/-- Decoding what was encoded gives it back, for every instruction and every operand value, whatever bytes
follow (30_encoding.md sections 1 to 4; the byte values are decision D1's). -/
def Obligations.DecodeOfEncode : Prop :=
  ∀ (i : Instr) (rest : List Byte), i.wellFormed = true → decode (encode i ++ rest) = .ok (i, rest)

/-- The bytes a successful decode consumed are the encoding of what it read: no other word means the same
instruction (30_encoding.md sections 1 to 4; the byte values are decision D1's). -/
def Obligations.EncodeOfDecode : Prop :=
  ∀ (bytes rest : List Byte) (i : Instr), decode bytes = .ok (i, rest) →
    bytes = encode i ++ rest ∧ (encode i).length = i.length ∧ i.wellFormed = true

/-- 30_encoding.md section 5 (R69, with decisions D1 and D2): the decoder refuses an opcode byte, by name,
exactly when it is one of the 187 bytes listed there, whatever follows. -/
def Obligations.UnimplementedBytesAreRefused : Prop :=
  ∀ (op : Byte) (rest : List Byte),
    (decode (op :: rest) = .error (.unimplementedOpcode op)) ↔ unimplemented op

/-- 30_encoding.md sections 1, 4 (R61, R68; byte values decision D1's): a few words, at least one of each
family, written out byte by byte, decode to the instruction the map names. -/
def Obligations.SpecWordsDecode : Prop :=
  decode [0x80] = .ok (.addAB, []) ∧ decode [0x8E] = .ok (.adcAMemHL, []) ∧
  decode [0xA6] = .ok (.andAMemHL, []) ∧ decode [0xBF] = .ok (.cpAA, []) ∧
  decode [0x2C] = .ok (.incL, []) ∧ decode [0x27] = .ok (.daa, []) ∧ decode [0x2F] = .ok (.cpl, []) ∧
  decode [0x3F] = .ok (.ccf, []) ∧ decode [0x76] = .ok (.halt, []) ∧ decode [0xCB] = .ok (.prefixCB, []) ∧
  decode [0xC3, 0x34, 0x12] = .ok (.jp 0x1234, []) ∧ decode [0xDA, 0x00, 0x80] = .ok (.jpC 0x8000, []) ∧
  decode [0xE9] = .ok (.jpHL, []) ∧ decode [0xCD, 0x00, 0x20] = .ok (.call 0x2000, []) ∧
  decode [0xD4, 0x78, 0x56] = .ok (.callNC 0x5678, []) ∧ decode [0x26, 0xA4] = .ok (.ldH 0xA4, []) ∧
  decode [0x12] = .ok (.ldMemDEA, []) ∧ decode [0x0A] = .ok (.ldAMemBC, []) ∧
  decode [0x08, 0x00, 0xC0] = .ok (.ldMemA16SP 0xC000, [])

/-! ## The step -/

/-- 42_dispatch_loop.md section 2 (R161; operand fetch before the effect is decision D30's): when the bytes
at `pc` decode to `i`, a step of a running machine is `exec i` with `pc` past the instruction's bytes. -/
def Obligations.StepRunsDecodedInstruction : Prop :=
  ∀ (s : State) (i : Instr) (rest : List Byte), s.run = .running →
    decode [s.ps.read s.pc, s.ps.read (s.pc + 1), s.ps.read (s.pc + 2)] = .ok (i, rest) →
    step s = exec i { s with pc := s.pc + BitVec.ofNat 16 i.length }

/-- 60_exceptions.md section 4 (R225, with decision D12): fault entry. An unimplemented opcode byte faults
with cause 1, the prefix byte 0xCB with cause 2; `pc` is one past the byte and nothing else changes. -/
def Obligations.FaultEntry : Prop :=
  ∀ s : State, s.run = .running →
    (unimplemented (s.ps.read s.pc) →
      step s = .next { s with pc := s.pc + 1, run := .faulted .unimplementedOpcode }) ∧
    (s.ps.read s.pc = 0xCB →
      step s = .next { s with pc := s.pc + 1, run := .faulted .unimplementedPrefix })

/-- How a run stands and that it ends. 70_reset_and_hazards.md section 2 (R240, with decisions D12, D15): the
status outputs are the functions of the run state given there. 42_dispatch_loop.md section 4 (R170): a halted
or faulted machine has no step; how the model says so, by a named fault, is its own choice (log 6). -/
def Obligations.EndedRunHasNoStep : Prop :=
  ∀ s : State,
    (s.run = .halted → step s = .fault .runHalted) ∧
    (∀ cause, s.run = .faulted cause → step s = .fault (.runFaulted cause)) ∧
    (s.isHalted = true ↔ s.run = .halted) ∧
    (s.isFaulted = true ↔ ∃ cause, s.run = .faulted cause) ∧
    (s.run = .faulted .unimplementedOpcode → s.cause = 1) ∧
    (s.run = .faulted .unimplementedPrefix → s.cause = 2) ∧
    (s.isFaulted = false → s.cause = 0) ∧
    ¬ (s.isHalted = true ∧ s.isFaulted = true) ∧
    (s.isHalted = false ∧ s.isFaulted = false ↔ s.run = .running)

/-- 42_dispatch_loop.md section 4 and 70_reset_and_hazards.md section 7 (R170, R247): a running machine always
has a next state. That state may be Halted or Faulted; that a faulting byte too gives a next state is decision
D12 of the spec (log 5). -/
def Obligations.RunningMachineAlwaysSteps : Prop :=
  ∀ s : State, s.run = .running → ∃ t, step s = .next t

/-- 42_dispatch_loop.md section 1 (R160; the `Faulted` values are decision D12's): the transitions of the run
state are exactly these: Running stays Running for every instruction but HALT, HALT makes it Halted, an
unimplemented byte Faulted(1), the prefix Faulted(2); only a running machine steps; reset leads from any
state to Running. -/
def Obligations.RunStateTransitions : Prop :=
  (∀ s t : State, step s = .next t → s.run = .running ∧
    t.run = match decode [s.ps.read s.pc, s.ps.read (s.pc + 1), s.ps.read (s.pc + 2)] with
      | .ok (.halt, _) => .halted
      | .ok (.prefixCB, _) => .faulted .unimplementedPrefix
      | .ok _ => .running
      | .error _ => .faulted .unimplementedOpcode) ∧
  ∀ s : State, (State.resetEvent s).run = .running

/-- 60_exceptions.md R221: no instruction of the table faults while it executes (the prefix byte is not one
of the 68), and a step that faults fetched an opcode byte that is no instruction of the table. -/
def Obligations.FaultsBelongToTheFetch : Prop :=
  (∀ (i : Instr) (s : State), i ≠ .prefixCB →
    ∃ t, exec i s = .next t ∧ (t.run = s.run ∨ (i = .halt ∧ t.run = .halted))) ∧
  (∀ (s t : State) (cause : FaultCause), step s = .next t → t.run = .faulted cause →
    ∀ i rest, decode [s.ps.read s.pc, s.ps.read (s.pc + 1), s.ps.read (s.pc + 2)] = .ok (i, rest) →
      i = .prefixCB)

/-- 10_state.md section 3 (R20): how `pc` moves. The fetch leaves `pc` at `p + n`, where the instruction
executes; a jump or call taken overwrites it, every other instruction leaves it there; a taken call pushes that
value, read back from the new `sp` low byte first (the layout of the push is decision D11's, R47, R187). -/
def Obligations.ProgramCounterMovement : Prop :=
  (∀ (s : State) (i : Instr) (rest : List Byte),
    decode [s.ps.read s.pc, s.ps.read (s.pc + 1), s.ps.read (s.pc + 2)] = .ok (i, rest) →
    fetchInstr s = (some i, { s with pc := s.pc + BitVec.ofNat 16 i.length })) ∧
  (∀ (i : Instr) (s t : State), exec i s = .next t → t.pc = nextPc s i) ∧
  (∀ (i : Instr) (s t : State), callTaken s.f i = true → exec i s = .next t → memRead16 t t.sp = s.pc)

/-- 43_control_transfer.md R193: a conditional jump or call that is not taken lands three bytes past its own
address, and nothing but `pc` changes. -/
def Obligations.NotTakenLandsPastTheOperands : Prop :=
  ∀ form ∈ jumpForms ++ callForms, ∀ (s : State) (target : Word) (rest : List Byte),
    s.run = .running → ¬ form.2 s.f →
    decode [s.ps.read s.pc, s.ps.read (s.pc + 1), s.ps.read (s.pc + 2)] = .ok (form.1 target, rest) →
    step s = .next { s with pc := s.pc + 3 }

/-- 43_control_transfer.md section 5 (R197, derived there; layout decision D11's): after the step of any taken
call, the two bytes at the new `sp` are the address of the instruction after the call, low byte first. -/
def Obligations.CallReturnAddressRoundTrip : Prop :=
  ∀ (s t : State) (i : Instr) (rest : List Byte), s.run = .running →
    decode [s.ps.read s.pc, s.ps.read (s.pc + 1), s.ps.read (s.pc + 2)] = .ok (i, rest) →
    callTaken s.f i = true → step s = .next t →
    (t.ws.read t.sp).toNat + 256 * (t.ws.read (t.sp + 1)).toNat = (s.pc.toNat + 3) % 65536

/-! ## Rules of the whole machine -/

/-- 10_state.md R17: the flags are written only as the table says. Instructions outside it leave `f` alone;
those in it clear, set, keep or invert the flags the table says they do. -/
def Obligations.FlagsWrittenOnlyAsListed : Prop :=
  ∀ (i : Instr) (s t : State), exec i s = .next t →
    (writesFlags i = false → t.f = s.f) ∧
    (i ∈ addForms.map Prod.fst ∨ i ∈ adcForms.map Prod.fst → flagN t.f = false) ∧
    (i ∈ andForms.map Prod.fst → flagN t.f = false ∧ flagH t.f = true ∧ flagC t.f = false) ∧
    (∀ form ∈ cpForms, i = form.1 →
      (s.cfg.cpMode = .reference → s.a = form.2 s →
        flagZ t.f = true ∧ flagN t.f = true ∧ flagH t.f = false ∧ flagC t.f = false) ∧
      (s.cfg.cpMode = .reference → s.a ≠ form.2 s → flagZ t.f = false ∧ flagN t.f = false) ∧
      (s.cfg.cpMode = .corrected → flagN t.f = true)) ∧
    (isInc i = true → flagN t.f = false ∧ flagC t.f = flagC s.f) ∧
    (i = .daa → flagN t.f = flagN s.f ∧ flagH t.f = false ∧ (flagC s.f = true → flagC t.f = true)) ∧
    (i = .cpl → flagZ t.f = flagZ s.f ∧ flagN t.f = true ∧ flagH t.f = true ∧ flagC t.f = flagC s.f) ∧
    (i = .ccf → flagZ t.f = flagZ s.f ∧ flagN t.f = flagN s.f ∧ flagH t.f = flagH s.f ∧
      flagC t.f = !flagC s.f)

/-- 10_state.md R18: the flags are read only as listed. With the listed flags alike, the effect is alike but
for the flags an instruction passes through; Subtract and Half-Carry are read by `DAA` alone. -/
def Obligations.FlagsReadOnlyAsListed : Prop :=
  ∀ (i : Instr) (s : State) (v : Byte), (∀ flag ∈ flagsRead i, flag v = flag s.f) →
    mapNext (fun t => { t with f := 0 }) (exec i { s with f := v }) =
      mapNext (fun t => { t with f := 0 }) (exec i s) ∧
    (writesFlags i = true → passesFlags i = false → exec i { s with f := v } = exec i s)

/-- 10_state.md R22: the stack pointer is changed only by the push of a taken call, by two decrements; it is
read by that push and by `LD (a16),SP` alone. -/
def Obligations.StackPointerChangedOnlyByTakenCalls : Prop :=
  (∀ (i : Instr) (s t : State), exec i s = .next t →
    t.sp = if callTaken s.f i = true then s.sp - 1 - 1 else s.sp) ∧
  (∀ (i : Instr) (s : State) (v : Word), isCall i = false → (∀ a16, i ≠ .ldMemA16SP a16) →
    exec i { s with sp := v } = mapNext (fun t => { t with sp := v }) (exec i s))

/-- 10_state.md section 1 (the writers of each register, derived there from the instruction rules): a
register of the file changes only by an instruction listed as its writer. -/
def Obligations.RegistersChangedOnlyByTheirWriters : Prop :=
  ∀ (i : Instr) (s t : State) (r : Reg), exec i s = .next t → writtenReg i ≠ some r →
    (r = .f → writesFlags i = false) → readReg t r = readReg s r

/-- 20_memory.md R42: working space is written only by the listed stores and the push of a taken call, read
only by the listed forms, and never executed from. -/
def Obligations.WorkingSpaceAccessedOnlyAsListed : Prop :=
  (∀ (i : Instr) (s t : State), exec i s = .next t → isStore i = false → callTaken s.f i = false →
    t.ws = s.ws) ∧
  (∀ (i : Instr) (s : State) (m : Memory), readsWorkingSpace i = false →
    mapNext (fun t => { t with ws := [] }) (exec i { s with ws := m }) =
      mapNext (fun t => { t with ws := [] }) (exec i s)) ∧
  (∀ (s : State) (m : Memory), fetchInstr { s with ws := m } =
    ((fetchInstr s).1, { (fetchInstr s).2 with ws := m }))

/-- 20_memory.md R41: program space is read only by the fetch, at the address in `pc`; no instruction writes
it or reads it as data, so a step leaves it as it was. -/
def Obligations.ProgramSpaceOnlyFetched : Prop :=
  (∀ s t : State, step s = .next t → t.ps = s.ps) ∧
  (∀ (i : Instr) (s : State) (m : Memory),
    exec i { s with ps := m } = mapNext (fun t => { t with ps := m }) (exec i s)) ∧
  (∀ (s : State) (m : Memory),
    (∀ k, k < fetchedBytes s → m.read (s.pc + BitVec.ofNat 16 k) = s.ps.read (s.pc + BitVec.ofNat 16 k)) →
    step { s with ps := m } = mapNext (fun t => { t with ps := m }) (step s))

/-- No step changes the configuration; that it is a field of State is the model's choice (log 1; the
parameters are fixed, 00_scope.md section 4). -/
def Obligations.ConfigurationIsFixed : Prop :=
  ∀ s t : State, step s = .next t → t.cfg = s.cfg

/-- Every step keeps the invariant of the state (10_state.md section 9, derived there; the canonical form of
memory is the model's, log 3). -/
def Obligations.StepKeepsInvariant : Prop :=
  ∀ s t : State, s.Inv → step s = .next t → t.Inv

/-- The invariant holds of the state after reset. -/
def Obligations.ResetMeetsInvariant : Prop := State.reset.Inv

/-- Every state the machine can reach, from a launch with any images and any launch values, meets the
invariant (10_state.md section 9, derived there; the canonical form is the model's, log 3). -/
def Obligations.ReachableStatesMeetInvariant : Prop := ∀ s : State, Reachable s → s.Inv

/-! ## Reset, launch, views and memory -/

/-- 10_state.md section 8 (R29, with decision D15; `SP_RESET` is a parameter): the reset event puts every
register at its reset value, `sp` at `SP_RESET`, the run state at Running with cause 0, and changes neither
space. -/
def Obligations.ResetEventValues : Prop :=
  ∀ s : State,
    (State.resetEvent s).b = 0 ∧ (State.resetEvent s).c = 0 ∧ (State.resetEvent s).d = 0 ∧
    (State.resetEvent s).e = 0 ∧ (State.resetEvent s).h = 0 ∧ (State.resetEvent s).l = 0 ∧
    (State.resetEvent s).a = 0 ∧ (State.resetEvent s).f = 0 ∧ (State.resetEvent s).pc = 0 ∧
    (State.resetEvent s).sp = s.cfg.spReset ∧ (State.resetEvent s).run = .running ∧
    (State.resetEvent s).cause = 0 ∧
    (State.resetEvent s).ps = s.ps ∧ (State.resetEvent s).ws = s.ws

/-- 70_reset_and_hazards.md section 2 and 10_state.md section 8 (R241, R30, with decisions D15, D16). After the
launch both spaces read as their images and the run state is as before. The value given last to a register, a
pair, `pc` or `sp` is the value held (one for `f` with its low nibble zero); what is given no value keeps what
it held, which after the reset event is its reset value. That several values may be given to one register, the
last of them counting, is the model's form of the launch (log 7). -/
def Obligations.LaunchSuppliesImages : Prop :=
  ∀ (s : State) (ps ws : Word → Byte),
    (∀ writes : List LaunchWrite,
      (∀ x, (State.launch ps ws writes s).ps.read x = ps x) ∧
      (∀ x, (State.launch ps ws writes s).ws.read x = ws x) ∧
      (State.launch ps ws writes s).run = s.run ∧
      (∀ r, (∀ w ∈ writes, setsReg w r = false) → held (State.launch ps ws writes s) r = held s r) ∧
      ((∀ w ∈ writes, setsPc w = false) → (State.launch ps ws writes s).pc = s.pc) ∧
      ((∀ w ∈ writes, setsSp w = false) → (State.launch ps ws writes s).sp = s.sp)) ∧
    (∀ (before after : List LaunchWrite) (r : Reg) (v : Byte), (∀ w ∈ after, setsReg w r = false) →
      held (State.launch ps ws (before ++ .reg r v :: after) s) r =
        if r = .f then BitVec.ofNat 8 (v.toNat / 16 * 16) else v) ∧
    (∀ (before after : List LaunchWrite) (p : Pair) (v : Word),
      (∀ w ∈ after, ∀ r, setsReg (.pair p v) r = true → setsReg w r = false) →
      readPair (State.launch ps ws (before ++ .pair p v :: after) s) p = v) ∧
    (∀ (before after : List LaunchWrite) (v : Word), (∀ w ∈ after, setsPc w = false) →
      (State.launch ps ws (before ++ .pc v :: after) s).pc = v) ∧
    (∀ (before after : List LaunchWrite) (v : Word), (∀ w ∈ after, setsSp w = false) →
      (State.launch ps ws (before ++ .sp v :: after) s).sp = v) ∧
    (State.launch ps ws [] (State.resetEvent s)).run = .running ∧
    (∀ r, held (State.launch ps ws [] (State.resetEvent s)) r = 0) ∧
    (State.launch ps ws [] (State.resetEvent s)).pc = 0 ∧
    (State.launch ps ws [] (State.resetEvent s)).sp = s.cfg.spReset

/-- 10_state.md R12: a pair is its two registers, the first-named one the high byte. -/
def Obligations.PairsAreTheirHalves : Prop :=
  ∀ s : State,
    (readPair s .bc).toNat = s.b.toNat * 256 + s.c.toNat ∧
    (readPair s .de).toNat = s.d.toNat * 256 + s.e.toNat ∧
    (readPair s .hl).toNat = s.h.toNat * 256 + s.l.toNat

/-- 10_state.md section 1 (R10, R11, R13; the index order is decision D3's, the hard-wired nibble D15's): a
write through the array view is seen through both views and changes no other register; a pair written reads
back as written. -/
def Obligations.RegisterViewsShareStorage : Prop :=
  (∀ (s : State) (k j : Fin 8) (v : Byte),
    readRegAt (writeRegAt k v s) j =
      if j = k then (if k = 7 then v &&& 0xF0 else v) else readRegAt s j) ∧
  (∀ s : State, [0, 1, 2, 3, 4, 5, 6, 7].map (readRegAt s) =
    [s.b, s.c, s.d, s.e, s.h, s.l, s.a, s.f &&& 0xF0]) ∧
  (∀ (s : State) (p : Pair) (v : Word), readPair (writePair p v s) p = v)

/-- 20_memory.md R58: the access primitives. A one-byte read gives its byte; a one-byte write sets its byte
and no other; a two-byte write sets the low byte at `a` and the high byte at `a + 1`; a two-byte read, of
either space, is the byte at `a` plus 256 times the byte at `a + 1`. Nothing else changes. -/
def Obligations.AccessPrimitives : Prop :=
  (∀ (s : State) (a : Word), progRead s a = s.ps.read a ∧ memRead s a = s.ws.read a) ∧
  (∀ (s : State) (a : Word),
    (progRead16 s a).toNat = (progRead s a).toNat + 256 * (progRead s (a + 1)).toNat) ∧
  (∀ (s : State) (a x : Word) (v : Byte), memRead (memWrite a v s) x = if x = a then v else memRead s x) ∧
  (∀ (s : State) (a x v : Word), memRead (memWrite16 a v s) x =
    if x = a then BitVec.ofNat 8 (v.toNat % 256)
    else if x = a + 1 then BitVec.ofNat 8 (v.toNat / 256) else memRead s x) ∧
  (∀ (s : State) (a : Word),
    (memRead16 s a).toNat = (memRead s a).toNat + 256 * (memRead s (a + 1)).toNat) ∧
  (∀ (s : State) (a v : Word), memRead16 (memWrite16 a v s) a = v) ∧
  (∀ (s : State) (a v : Word), memWrite16 a v s = { s with ws := (memWrite16 a v s).ws }) ∧
  (∀ (s : State) (a : Word) (v : Byte), memWrite a v s = { s with ws := (memWrite a v s).ws })

/-- Canonical memories that read alike everywhere are equal lists: one representation per content of a space
(20_memory.md section 1; the representation is the model's, log 3). -/
def Obligations.CanonicalMemoriesEqualByReads : Prop :=
  ∀ m n : Memory, m.wf → n.wf → (∀ a : Word, m.read a = n.read a) → m = n
end

