-- ==== Sys2Proof/Laws/Decode.lean ====
section
/-! SUPPORT. Byte order helpers and the decoder: splitting and joining a 16-bit value, and what
`decode` does with each format. -/

namespace Sys2Proof

theorem joinBytes_toNat (hi lo : Byte) : (joinBytes hi lo).toNat = hi.toNat * 256 + lo.toNat := by
  have h : (joinBytes hi lo).toNat = hi.toNat <<< 8 ||| lo.toNat := BitVec.toNat_append hi lo
  rw [h, ← Nat.shiftLeft_add_eq_or_of_lt lo.isLt, Nat.shiftLeft_eq]

theorem lowByte_toNat (w : Word) : (lowByte w).toNat = w.toNat % 256 := by simp [lowByte]

theorem highByte_toNat (w : Word) : (highByte w).toNat = w.toNat / 256 := by
  have := w.isLt
  simp [highByte, Nat.shiftRight_eq_div_pow]
  omega

@[simp] theorem lowByte_joinBytes (hi lo : Byte) : lowByte (joinBytes hi lo) = lo := by
  apply BitVec.eq_of_toNat_eq
  have := lo.isLt
  rw [lowByte_toNat, joinBytes_toNat]
  omega

@[simp] theorem highByte_joinBytes (hi lo : Byte) : highByte (joinBytes hi lo) = hi := by
  apply BitVec.eq_of_toNat_eq
  have := lo.isLt
  rw [highByte_toNat, joinBytes_toNat]
  omega

@[simp] theorem joinBytes_high_low (w : Word) : joinBytes (highByte w) (lowByte w) = w := by
  apply BitVec.eq_of_toNat_eq
  rw [joinBytes_toNat, lowByte_toNat, highByte_toNat]
  omega

/-! ## decode, by the format of the opcode byte (30_encoding.md R61) -/

theorem decode_none {op : Byte} (h : decodeOpcode op = none) (rest : List Byte) :
    decode (op :: rest) = .error (.unimplementedOpcode op) := by simp [decode, h]

theorem decode_op {op : Byte} {i : Instr} (h : decodeOpcode op = some (.op i)) (rest : List Byte) :
    decode (op :: rest) = .ok (i, rest) := by
  simp [decode, h, OpcodeForm.withOperand]

theorem decode_d8 {op : Byte} {mk : Byte → Instr} (h : decodeOpcode op = some (.d8 mk)) (d8 : Byte)
    (rest : List Byte) : decode (op :: d8 :: rest) = .ok (mk d8, rest) := by
  simp [decode, h, OpcodeForm.withOperand]

theorem decode_a16 {op : Byte} {mk : Word → Instr} (h : decodeOpcode op = some (.a16 mk)) (lo hi : Byte)
    (rest : List Byte) : decode (op :: lo :: hi :: rest) = .ok (mk (joinBytes hi lo), rest) := by
  simp [decode, h, OpcodeForm.withOperand]

end Sys2Proof
end

