-- ==== Sys2Proof/Laws/Flags.lean ====
section
/-! SUPPORT. The flag byte: what each accessor reads of a flag byte that was built, masked or changed. -/

namespace Sys2Proof.Machine

variable (z n h c : Bool)

@[simp] theorem flagZ_flagByte : flagZ (flagByte z n h c) = z := by revert z n h c; decide
@[simp] theorem flagN_flagByte : flagN (flagByte z n h c) = n := by revert z n h c; decide
@[simp] theorem flagH_flagByte : flagH (flagByte z n h c) = h := by revert z n h c; decide
@[simp] theorem flagC_flagByte : flagC (flagByte z n h c) = c := by revert z n h c; decide

/-- A built flag byte has its low nibble zero (spec/10_state.md R16). -/
@[simp] theorem flagByte_low : flagByte z n h c &&& 15#8 = 0#8 := by revert z n h c; decide

/-- The hard-wired nibble changes nothing in a built flag byte. -/
@[simp] theorem flagByte_mask : flagByte z n h c &&& flagMask = flagByte z n h c := by
  revert z n h c; decide

theorem flagByte_toNat : (flagByte z n h c).toNat =
    z.toNat * 128 + n.toNat * 64 + h.toNat * 32 + c.toNat * 16 := by revert z n h c; decide

variable (f : Byte)

@[simp] theorem flagZ_mask : flagZ (f &&& flagMask) = flagZ f := by simp [flagZ, flagMask]
@[simp] theorem flagN_mask : flagN (f &&& flagMask) = flagN f := by simp [flagN, flagMask]
@[simp] theorem flagH_mask : flagH (f &&& flagMask) = flagH f := by simp [flagH, flagMask]
@[simp] theorem flagC_mask : flagC (f &&& flagMask) = flagC f := by simp [flagC, flagMask]

@[simp] theorem mask_low : f &&& flagMask &&& 15#8 = 0#8 := by
  rw [flagMask, BitVec.and_assoc]; simp

@[simp] theorem mask_mask : f &&& flagMask &&& flagMask = f &&& flagMask := by
  rw [BitVec.and_assoc, BitVec.and_self]

/-- Two flag bytes with zero low nibble and the same four flags are equal. -/
theorem flags_ext {f g : Byte} (hf : f &&& 15#8 = 0#8) (hg : g &&& 15#8 = 0#8) (hz : flagZ f = flagZ g)
    (hn : flagN f = flagN g) (hh : flagH f = flagH g) (hc : flagC f = flagC g) : f = g := by
  apply BitVec.eq_of_getLsbD_eq
  intro k hk
  have low : ∀ (x : Byte), x &&& 15#8 = 0#8 → ∀ j, j < 4 → x.getLsbD j = false := by
    intro x hx j hj
    have := congrArg (fun y : Byte => y.getLsbD j) hx
    interval_cases j <;> simpa using this
  by_cases h4 : k < 4
  · rw [low f hf k h4, low g hg k h4]
  · have : k = 4 ∨ k = 5 ∨ k = 6 ∨ k = 7 := by omega
    rcases this with rfl | rfl | rfl | rfl
    · exact hc
    · exact hh
    · exact hn
    · exact hz

/-- The flag byte of its own four flags, low nibble aside. -/
theorem flagByte_of_flags : flagByte (flagZ f) (flagN f) (flagH f) (flagC f) = f &&& flagMask :=
  flags_ext (by simp) (by simp) (by simp) (by simp) (by simp) (by simp)

@[simp] theorem flagZ_complement (a : Byte) : flagZ (aluComplement a f).2 = flagZ f := by
  simp [flagZ, aluComplement]
@[simp] theorem flagN_complement (a : Byte) : flagN (aluComplement a f).2 = true := by
  simp [flagN, aluComplement]
@[simp] theorem flagH_complement (a : Byte) : flagH (aluComplement a f).2 = true := by
  simp [flagH, aluComplement]
@[simp] theorem flagC_complement (a : Byte) : flagC (aluComplement a f).2 = flagC f := by
  simp [flagC, aluComplement]

@[simp] theorem flagZ_flipCarry : flagZ (flipCarry f) = flagZ f := by simp [flagZ, flipCarry]
@[simp] theorem flagN_flipCarry : flagN (flipCarry f) = flagN f := by simp [flagN, flipCarry]
@[simp] theorem flagH_flipCarry : flagH (flipCarry f) = flagH f := by simp [flagH, flipCarry]
@[simp] theorem flagC_flipCarry : flagC (flipCarry f) = !flagC f := by simp [flagC, flipCarry]

end Sys2Proof.Machine
end

