-- ==== Sys2Proof/Laws/Memory.lean ====
section
/-! SUPPORT. Memory: a read after a write (spec/20_memory.md R51, R53, R58), and the canonical form,
which every memory operation keeps. The read laws hold of every list, canonical or not. -/

namespace Sys2Proof.Machine.Memory

theorem lookup_insertCell_same (k : Nat) (v : Byte) (m : Memory) (h : ∀ cell ∈ m, cell.1 ≠ k) :
    lookup k (insertCell (k, v) m) = v := by
  induction m with
  | nil => simp [insertCell, lookup]
  | cons head rest ih =>
    have hh := h head List.mem_cons_self
    have hr : ∀ cell ∈ rest, cell.1 ≠ k := fun cell hc => h cell (List.mem_cons_of_mem _ hc)
    by_cases hlt : k < head.1
    · simp [insertCell, hlt, lookup]
    · simp [insertCell, hlt, lookup, hh, ih hr]

theorem lookup_insertCell_other {k q : Nat} (hq : q ≠ k) (v : Byte) (m : Memory) :
    lookup q (insertCell (k, v) m) = lookup q m := by
  induction m with
  | nil => simp [insertCell, lookup, Ne.symm hq]
  | cons head rest ih =>
    by_cases hlt : k < head.1
    · simp [insertCell, hlt, lookup, Ne.symm hq]
    · simp [insertCell, hlt, lookup, ih]

theorem lookup_filter_other {k q : Nat} (hq : q ≠ k) (m : Memory) :
    lookup q (m.filter (fun cell => cell.1 != k)) = lookup q m := by
  induction m with
  | nil => rfl
  | cons head rest ih =>
    by_cases hk : head.1 = k
    · simp [hk, lookup, ih, Ne.symm hq]
    · simp [hk, lookup, ih]

theorem lookup_unlisted (k : Nat) (m : Memory) (h : ∀ cell ∈ m, cell.1 ≠ k) :
    lookup k m = unlistedByte := by
  induction m with
  | nil => rfl
  | cons head rest ih =>
    simp [lookup, h head List.mem_cons_self, ih fun cell hc => h cell (List.mem_cons_of_mem _ hc)]

theorem filter_clears (k : Nat) (m : Memory) :
    ∀ cell ∈ m.filter (fun cell => cell.1 != k), cell.1 ≠ k := by
  intro cell hc
  simpa using (List.mem_filter.mp hc).2

/-- A read of the address just written gives the byte written. -/
@[simp] theorem read_write_same (m : Memory) (a : Word) (v : Byte) : (m.write a v).read a = v := by
  unfold read write
  split
  · next h => rw [h]; exact lookup_unlisted _ _ (filter_clears _ _)
  · exact lookup_insertCell_same _ _ _ (filter_clears _ _)

/-- A write leaves every other address alone. -/
theorem read_write_other (m : Memory) {a q : Word} (h : q ≠ a) (v : Byte) :
    (m.write a v).read q = m.read q := by
  have hq : q.toNat ≠ a.toNat := fun e => h (BitVec.eq_of_toNat_eq e)
  unfold read write
  split
  · exact lookup_filter_other hq m
  · exact (lookup_insertCell_other hq v _).trans (lookup_filter_other hq m)

/-- A read after a write, at every address. -/
theorem read_write (m : Memory) (a q : Word) (v : Byte) :
    (m.write a v).read q = if q = a then v else m.read q := by
  split
  · next h => rw [h, read_write_same]
  · next h => exact read_write_other m h v

/-! ## The canonical form -/

theorem mem_insertCell {cell x : Host.Cell} {m : Memory} (h : x ∈ insertCell cell m) :
    x = cell ∨ x ∈ m := by
  induction m with
  | nil => simpa [insertCell] using h
  | cons head rest ih =>
    by_cases hlt : cell.1 < head.1
    · simpa [insertCell, hlt] using h
    · simp only [insertCell, hlt, if_false, List.mem_cons] at h ⊢
      rcases h with rfl | h
      · exact .inr (.inl rfl)
      · exact (ih h).imp_right .inr

theorem insertCell_sorted {cell : Host.Cell} {m : Memory} (hm : m.Pairwise (fun x y => x.1 < y.1))
    (hn : ∀ x ∈ m, x.1 ≠ cell.1) : (insertCell cell m).Pairwise (fun x y => x.1 < y.1) := by
  induction m with
  | nil => simp [insertCell]
  | cons head rest ih =>
    obtain ⟨hhead, hrest⟩ := List.pairwise_cons.mp hm
    by_cases hlt : cell.1 < head.1
    · simp only [insertCell, hlt, if_true, List.pairwise_cons, List.mem_cons]
      refine ⟨?_, hhead, hrest⟩
      rintro x (rfl | hx)
      · exact hlt
      · exact hlt.trans (hhead x hx)
    · simp only [insertCell, hlt, if_false, List.pairwise_cons]
      refine ⟨fun x hx => ?_, ih hrest fun x hx => hn x (List.mem_cons_of_mem _ hx)⟩
      rcases mem_insertCell hx with rfl | hx
      · have := hn head List.mem_cons_self
        omega
      · exact hhead x hx

/-- A write keeps the canonical form. -/
theorem write_wf {m : Memory} (h : m.wf) (a : Word) (v : Byte) : (m.write a v).wf := by
  obtain ⟨hs, hc⟩ := h
  have hfs := hs.filter (fun cell => cell.1 != a.toNat)
  have hfc : ∀ x ∈ m.filter (fun cell => cell.1 != a.toNat), x.1 < 65536 ∧ x.2 ≠ unlistedByte :=
    fun x hx => hc x (List.mem_filter.mp hx).1
  unfold write
  split
  · exact ⟨hfs, hfc⟩
  · next hv =>
    refine ⟨insertCell_sorted hfs (filter_clears _ _), fun x hx => ?_⟩
    rcases mem_insertCell hx with rfl | hx
    · exact ⟨a.isLt, hv⟩
    · exact hfc x hx

/-- Writing several bytes keeps the canonical form. -/
theorem writeBytes_wf {m : Memory} (h : m.wf) (a : Word) (bytes : List Byte) :
    (m.writeBytes a bytes).wf := by
  induction bytes generalizing m a with
  | nil => exact h
  | cons v rest ih => exact ih (write_wf h a v) (a + 1)

theorem empty_wf : wf [] := by simp [wf]

/-! ## Total images -/

theorem cellsFrom_range (image : Word → Byte) (n start : Nat) :
    ∀ x ∈ cellsFrom image n start,
      start ≤ x.1 ∧ x.1 < start + n ∧ x.2 ≠ unlistedByte := by
  induction n generalizing start with
  | zero => simp [cellsFrom]
  | succ n ih =>
    intro x hx
    rw [cellsFrom] at hx
    split at hx
    · have := ih (start + 1) x hx
      exact ⟨by omega, by omega, this.2.2⟩
    · next hv =>
      rcases List.mem_cons.mp hx with rfl | hx
      · exact ⟨le_rfl, by omega, hv⟩
      · have := ih (start + 1) x hx
        exact ⟨by omega, by omega, this.2.2⟩

theorem cellsFrom_sorted (image : Word → Byte) (n start : Nat) :
    (cellsFrom image n start).Pairwise (fun x y => x.1 < y.1) := by
  induction n generalizing start with
  | zero => simp [cellsFrom]
  | succ n ih =>
    rw [cellsFrom]
    split
    · exact ih (start + 1)
    · refine List.pairwise_cons.mpr ⟨fun x hx => ?_, ih (start + 1)⟩
      have := (cellsFrom_range image n (start + 1) x hx).1
      show start < x.1
      omega

theorem lookup_cellsFrom (image : Word → Byte) (n start k : Nat) (h : start ≤ k) (hk : k < start + n) :
    lookup k (cellsFrom image n start) = image (BitVec.ofNat 16 k) := by
  induction n generalizing start with
  | zero => omega
  | succ n ih =>
    rw [cellsFrom]
    by_cases he : start = k
    · subst he
      split
      · next hv =>
        rw [hv]
        exact lookup_unlisted _ _ fun x hx => by
          have := (cellsFrom_range image n (start + 1) x hx).1
          omega
      · simp [lookup]
    · have hrest := ih (start + 1) (by omega) (by omega)
      split
      · exact hrest
      · simpa [lookup, he] using hrest

/-- An image of 65536 bytes is held in canonical form. -/
theorem ofImage_wf (image : Word → Byte) : (ofImage image).wf := by
  refine ⟨cellsFrom_sorted image 65536 0, fun x hx => ?_⟩
  have := cellsFrom_range image 65536 0 x hx
  exact ⟨by omega, this.2.2⟩

/-- Every address of a space that holds an image reads as the image says (R44, R241). -/
@[simp] theorem read_ofImage (image : Word → Byte) (a : Word) : (ofImage image).read a = image a := by
  have := lookup_cellsFrom image 65536 0 a.toNat (Nat.zero_le _) (by have := a.isLt; omega)
  simpa [read, ofImage] using this

end Sys2Proof.Machine.Memory
end

