-- ==== Sys2Proof/Laws/State.lean ====
section
/-! SUPPORT. What each update of State does to each field: one lemma per field per update, so that no
later proof unfolds a record update. -/

namespace Sys2Proof.Machine

variable (s : State)

/-! ## setPc -/

@[simp] theorem setPc_b (w : Word) : (setPc w s).b = s.b := rfl
@[simp] theorem setPc_c (w : Word) : (setPc w s).c = s.c := rfl
@[simp] theorem setPc_d (w : Word) : (setPc w s).d = s.d := rfl
@[simp] theorem setPc_e (w : Word) : (setPc w s).e = s.e := rfl
@[simp] theorem setPc_h (w : Word) : (setPc w s).h = s.h := rfl
@[simp] theorem setPc_l (w : Word) : (setPc w s).l = s.l := rfl
@[simp] theorem setPc_a (w : Word) : (setPc w s).a = s.a := rfl
@[simp] theorem setPc_f (w : Word) : (setPc w s).f = s.f := rfl
@[simp] theorem setPc_pc (w : Word) : (setPc w s).pc = w := rfl
@[simp] theorem setPc_sp (w : Word) : (setPc w s).sp = s.sp := rfl
@[simp] theorem setPc_run (w : Word) : (setPc w s).run = s.run := rfl
@[simp] theorem setPc_ps (w : Word) : (setPc w s).ps = s.ps := rfl
@[simp] theorem setPc_ws (w : Word) : (setPc w s).ws = s.ws := rfl
@[simp] theorem setPc_cfg (w : Word) : (setPc w s).cfg = s.cfg := rfl

/-! ## setSp -/

@[simp] theorem setSp_b (w : Word) : (setSp w s).b = s.b := rfl
@[simp] theorem setSp_c (w : Word) : (setSp w s).c = s.c := rfl
@[simp] theorem setSp_d (w : Word) : (setSp w s).d = s.d := rfl
@[simp] theorem setSp_e (w : Word) : (setSp w s).e = s.e := rfl
@[simp] theorem setSp_h (w : Word) : (setSp w s).h = s.h := rfl
@[simp] theorem setSp_l (w : Word) : (setSp w s).l = s.l := rfl
@[simp] theorem setSp_a (w : Word) : (setSp w s).a = s.a := rfl
@[simp] theorem setSp_f (w : Word) : (setSp w s).f = s.f := rfl
@[simp] theorem setSp_pc (w : Word) : (setSp w s).pc = s.pc := rfl
@[simp] theorem setSp_sp (w : Word) : (setSp w s).sp = w := rfl
@[simp] theorem setSp_run (w : Word) : (setSp w s).run = s.run := rfl
@[simp] theorem setSp_ps (w : Word) : (setSp w s).ps = s.ps := rfl
@[simp] theorem setSp_ws (w : Word) : (setSp w s).ws = s.ws := rfl
@[simp] theorem setSp_cfg (w : Word) : (setSp w s).cfg = s.cfg := rfl

/-! ## setRun -/

@[simp] theorem setRun_b (r : RunState) : (setRun r s).b = s.b := rfl
@[simp] theorem setRun_c (r : RunState) : (setRun r s).c = s.c := rfl
@[simp] theorem setRun_d (r : RunState) : (setRun r s).d = s.d := rfl
@[simp] theorem setRun_e (r : RunState) : (setRun r s).e = s.e := rfl
@[simp] theorem setRun_h (r : RunState) : (setRun r s).h = s.h := rfl
@[simp] theorem setRun_l (r : RunState) : (setRun r s).l = s.l := rfl
@[simp] theorem setRun_a (r : RunState) : (setRun r s).a = s.a := rfl
@[simp] theorem setRun_f (r : RunState) : (setRun r s).f = s.f := rfl
@[simp] theorem setRun_pc (r : RunState) : (setRun r s).pc = s.pc := rfl
@[simp] theorem setRun_sp (r : RunState) : (setRun r s).sp = s.sp := rfl
@[simp] theorem setRun_run (r : RunState) : (setRun r s).run = r := rfl
@[simp] theorem setRun_ps (r : RunState) : (setRun r s).ps = s.ps := rfl
@[simp] theorem setRun_ws (r : RunState) : (setRun r s).ws = s.ws := rfl
@[simp] theorem setRun_cfg (r : RunState) : (setRun r s).cfg = s.cfg := rfl

/-! ## memWrite -/

@[simp] theorem memWrite_b (w : Word) (v : Byte) : (memWrite w v s).b = s.b := rfl
@[simp] theorem memWrite_c (w : Word) (v : Byte) : (memWrite w v s).c = s.c := rfl
@[simp] theorem memWrite_d (w : Word) (v : Byte) : (memWrite w v s).d = s.d := rfl
@[simp] theorem memWrite_e (w : Word) (v : Byte) : (memWrite w v s).e = s.e := rfl
@[simp] theorem memWrite_h (w : Word) (v : Byte) : (memWrite w v s).h = s.h := rfl
@[simp] theorem memWrite_l (w : Word) (v : Byte) : (memWrite w v s).l = s.l := rfl
@[simp] theorem memWrite_a (w : Word) (v : Byte) : (memWrite w v s).a = s.a := rfl
@[simp] theorem memWrite_f (w : Word) (v : Byte) : (memWrite w v s).f = s.f := rfl
@[simp] theorem memWrite_pc (w : Word) (v : Byte) : (memWrite w v s).pc = s.pc := rfl
@[simp] theorem memWrite_sp (w : Word) (v : Byte) : (memWrite w v s).sp = s.sp := rfl
@[simp] theorem memWrite_run (w : Word) (v : Byte) : (memWrite w v s).run = s.run := rfl
@[simp] theorem memWrite_ps (w : Word) (v : Byte) : (memWrite w v s).ps = s.ps := rfl
@[simp] theorem memWrite_ws (w : Word) (v : Byte) : (memWrite w v s).ws = s.ws.write w v := rfl
@[simp] theorem memWrite_cfg (w : Word) (v : Byte) : (memWrite w v s).cfg = s.cfg := rfl

/-! ## writeReg .b -/

@[simp] theorem writeReg_b_b (v : Byte) : (writeReg .b v s).b = v := rfl
@[simp] theorem writeReg_b_c (v : Byte) : (writeReg .b v s).c = s.c := rfl
@[simp] theorem writeReg_b_d (v : Byte) : (writeReg .b v s).d = s.d := rfl
@[simp] theorem writeReg_b_e (v : Byte) : (writeReg .b v s).e = s.e := rfl
@[simp] theorem writeReg_b_h (v : Byte) : (writeReg .b v s).h = s.h := rfl
@[simp] theorem writeReg_b_l (v : Byte) : (writeReg .b v s).l = s.l := rfl
@[simp] theorem writeReg_b_a (v : Byte) : (writeReg .b v s).a = s.a := rfl
@[simp] theorem writeReg_b_f (v : Byte) : (writeReg .b v s).f = s.f := rfl
@[simp] theorem writeReg_b_pc (v : Byte) : (writeReg .b v s).pc = s.pc := rfl
@[simp] theorem writeReg_b_sp (v : Byte) : (writeReg .b v s).sp = s.sp := rfl
@[simp] theorem writeReg_b_run (v : Byte) : (writeReg .b v s).run = s.run := rfl
@[simp] theorem writeReg_b_ps (v : Byte) : (writeReg .b v s).ps = s.ps := rfl
@[simp] theorem writeReg_b_ws (v : Byte) : (writeReg .b v s).ws = s.ws := rfl
@[simp] theorem writeReg_b_cfg (v : Byte) : (writeReg .b v s).cfg = s.cfg := rfl

/-! ## writeReg .c -/

@[simp] theorem writeReg_c_b (v : Byte) : (writeReg .c v s).b = s.b := rfl
@[simp] theorem writeReg_c_c (v : Byte) : (writeReg .c v s).c = v := rfl
@[simp] theorem writeReg_c_d (v : Byte) : (writeReg .c v s).d = s.d := rfl
@[simp] theorem writeReg_c_e (v : Byte) : (writeReg .c v s).e = s.e := rfl
@[simp] theorem writeReg_c_h (v : Byte) : (writeReg .c v s).h = s.h := rfl
@[simp] theorem writeReg_c_l (v : Byte) : (writeReg .c v s).l = s.l := rfl
@[simp] theorem writeReg_c_a (v : Byte) : (writeReg .c v s).a = s.a := rfl
@[simp] theorem writeReg_c_f (v : Byte) : (writeReg .c v s).f = s.f := rfl
@[simp] theorem writeReg_c_pc (v : Byte) : (writeReg .c v s).pc = s.pc := rfl
@[simp] theorem writeReg_c_sp (v : Byte) : (writeReg .c v s).sp = s.sp := rfl
@[simp] theorem writeReg_c_run (v : Byte) : (writeReg .c v s).run = s.run := rfl
@[simp] theorem writeReg_c_ps (v : Byte) : (writeReg .c v s).ps = s.ps := rfl
@[simp] theorem writeReg_c_ws (v : Byte) : (writeReg .c v s).ws = s.ws := rfl
@[simp] theorem writeReg_c_cfg (v : Byte) : (writeReg .c v s).cfg = s.cfg := rfl

/-! ## writeReg .d -/

@[simp] theorem writeReg_d_b (v : Byte) : (writeReg .d v s).b = s.b := rfl
@[simp] theorem writeReg_d_c (v : Byte) : (writeReg .d v s).c = s.c := rfl
@[simp] theorem writeReg_d_d (v : Byte) : (writeReg .d v s).d = v := rfl
@[simp] theorem writeReg_d_e (v : Byte) : (writeReg .d v s).e = s.e := rfl
@[simp] theorem writeReg_d_h (v : Byte) : (writeReg .d v s).h = s.h := rfl
@[simp] theorem writeReg_d_l (v : Byte) : (writeReg .d v s).l = s.l := rfl
@[simp] theorem writeReg_d_a (v : Byte) : (writeReg .d v s).a = s.a := rfl
@[simp] theorem writeReg_d_f (v : Byte) : (writeReg .d v s).f = s.f := rfl
@[simp] theorem writeReg_d_pc (v : Byte) : (writeReg .d v s).pc = s.pc := rfl
@[simp] theorem writeReg_d_sp (v : Byte) : (writeReg .d v s).sp = s.sp := rfl
@[simp] theorem writeReg_d_run (v : Byte) : (writeReg .d v s).run = s.run := rfl
@[simp] theorem writeReg_d_ps (v : Byte) : (writeReg .d v s).ps = s.ps := rfl
@[simp] theorem writeReg_d_ws (v : Byte) : (writeReg .d v s).ws = s.ws := rfl
@[simp] theorem writeReg_d_cfg (v : Byte) : (writeReg .d v s).cfg = s.cfg := rfl

/-! ## writeReg .e -/

@[simp] theorem writeReg_e_b (v : Byte) : (writeReg .e v s).b = s.b := rfl
@[simp] theorem writeReg_e_c (v : Byte) : (writeReg .e v s).c = s.c := rfl
@[simp] theorem writeReg_e_d (v : Byte) : (writeReg .e v s).d = s.d := rfl
@[simp] theorem writeReg_e_e (v : Byte) : (writeReg .e v s).e = v := rfl
@[simp] theorem writeReg_e_h (v : Byte) : (writeReg .e v s).h = s.h := rfl
@[simp] theorem writeReg_e_l (v : Byte) : (writeReg .e v s).l = s.l := rfl
@[simp] theorem writeReg_e_a (v : Byte) : (writeReg .e v s).a = s.a := rfl
@[simp] theorem writeReg_e_f (v : Byte) : (writeReg .e v s).f = s.f := rfl
@[simp] theorem writeReg_e_pc (v : Byte) : (writeReg .e v s).pc = s.pc := rfl
@[simp] theorem writeReg_e_sp (v : Byte) : (writeReg .e v s).sp = s.sp := rfl
@[simp] theorem writeReg_e_run (v : Byte) : (writeReg .e v s).run = s.run := rfl
@[simp] theorem writeReg_e_ps (v : Byte) : (writeReg .e v s).ps = s.ps := rfl
@[simp] theorem writeReg_e_ws (v : Byte) : (writeReg .e v s).ws = s.ws := rfl
@[simp] theorem writeReg_e_cfg (v : Byte) : (writeReg .e v s).cfg = s.cfg := rfl

/-! ## writeReg .h -/

@[simp] theorem writeReg_h_b (v : Byte) : (writeReg .h v s).b = s.b := rfl
@[simp] theorem writeReg_h_c (v : Byte) : (writeReg .h v s).c = s.c := rfl
@[simp] theorem writeReg_h_d (v : Byte) : (writeReg .h v s).d = s.d := rfl
@[simp] theorem writeReg_h_e (v : Byte) : (writeReg .h v s).e = s.e := rfl
@[simp] theorem writeReg_h_h (v : Byte) : (writeReg .h v s).h = v := rfl
@[simp] theorem writeReg_h_l (v : Byte) : (writeReg .h v s).l = s.l := rfl
@[simp] theorem writeReg_h_a (v : Byte) : (writeReg .h v s).a = s.a := rfl
@[simp] theorem writeReg_h_f (v : Byte) : (writeReg .h v s).f = s.f := rfl
@[simp] theorem writeReg_h_pc (v : Byte) : (writeReg .h v s).pc = s.pc := rfl
@[simp] theorem writeReg_h_sp (v : Byte) : (writeReg .h v s).sp = s.sp := rfl
@[simp] theorem writeReg_h_run (v : Byte) : (writeReg .h v s).run = s.run := rfl
@[simp] theorem writeReg_h_ps (v : Byte) : (writeReg .h v s).ps = s.ps := rfl
@[simp] theorem writeReg_h_ws (v : Byte) : (writeReg .h v s).ws = s.ws := rfl
@[simp] theorem writeReg_h_cfg (v : Byte) : (writeReg .h v s).cfg = s.cfg := rfl

/-! ## writeReg .l -/

@[simp] theorem writeReg_l_b (v : Byte) : (writeReg .l v s).b = s.b := rfl
@[simp] theorem writeReg_l_c (v : Byte) : (writeReg .l v s).c = s.c := rfl
@[simp] theorem writeReg_l_d (v : Byte) : (writeReg .l v s).d = s.d := rfl
@[simp] theorem writeReg_l_e (v : Byte) : (writeReg .l v s).e = s.e := rfl
@[simp] theorem writeReg_l_h (v : Byte) : (writeReg .l v s).h = s.h := rfl
@[simp] theorem writeReg_l_l (v : Byte) : (writeReg .l v s).l = v := rfl
@[simp] theorem writeReg_l_a (v : Byte) : (writeReg .l v s).a = s.a := rfl
@[simp] theorem writeReg_l_f (v : Byte) : (writeReg .l v s).f = s.f := rfl
@[simp] theorem writeReg_l_pc (v : Byte) : (writeReg .l v s).pc = s.pc := rfl
@[simp] theorem writeReg_l_sp (v : Byte) : (writeReg .l v s).sp = s.sp := rfl
@[simp] theorem writeReg_l_run (v : Byte) : (writeReg .l v s).run = s.run := rfl
@[simp] theorem writeReg_l_ps (v : Byte) : (writeReg .l v s).ps = s.ps := rfl
@[simp] theorem writeReg_l_ws (v : Byte) : (writeReg .l v s).ws = s.ws := rfl
@[simp] theorem writeReg_l_cfg (v : Byte) : (writeReg .l v s).cfg = s.cfg := rfl

/-! ## writeReg .a -/

@[simp] theorem writeReg_a_b (v : Byte) : (writeReg .a v s).b = s.b := rfl
@[simp] theorem writeReg_a_c (v : Byte) : (writeReg .a v s).c = s.c := rfl
@[simp] theorem writeReg_a_d (v : Byte) : (writeReg .a v s).d = s.d := rfl
@[simp] theorem writeReg_a_e (v : Byte) : (writeReg .a v s).e = s.e := rfl
@[simp] theorem writeReg_a_h (v : Byte) : (writeReg .a v s).h = s.h := rfl
@[simp] theorem writeReg_a_l (v : Byte) : (writeReg .a v s).l = s.l := rfl
@[simp] theorem writeReg_a_a (v : Byte) : (writeReg .a v s).a = v := rfl
@[simp] theorem writeReg_a_f (v : Byte) : (writeReg .a v s).f = s.f := rfl
@[simp] theorem writeReg_a_pc (v : Byte) : (writeReg .a v s).pc = s.pc := rfl
@[simp] theorem writeReg_a_sp (v : Byte) : (writeReg .a v s).sp = s.sp := rfl
@[simp] theorem writeReg_a_run (v : Byte) : (writeReg .a v s).run = s.run := rfl
@[simp] theorem writeReg_a_ps (v : Byte) : (writeReg .a v s).ps = s.ps := rfl
@[simp] theorem writeReg_a_ws (v : Byte) : (writeReg .a v s).ws = s.ws := rfl
@[simp] theorem writeReg_a_cfg (v : Byte) : (writeReg .a v s).cfg = s.cfg := rfl

/-! ## writeReg .f -/

@[simp] theorem writeReg_f_b (v : Byte) : (writeReg .f v s).b = s.b := rfl
@[simp] theorem writeReg_f_c (v : Byte) : (writeReg .f v s).c = s.c := rfl
@[simp] theorem writeReg_f_d (v : Byte) : (writeReg .f v s).d = s.d := rfl
@[simp] theorem writeReg_f_e (v : Byte) : (writeReg .f v s).e = s.e := rfl
@[simp] theorem writeReg_f_h (v : Byte) : (writeReg .f v s).h = s.h := rfl
@[simp] theorem writeReg_f_l (v : Byte) : (writeReg .f v s).l = s.l := rfl
@[simp] theorem writeReg_f_a (v : Byte) : (writeReg .f v s).a = s.a := rfl
@[simp] theorem writeReg_f_f (v : Byte) : (writeReg .f v s).f = v &&& flagMask := rfl
@[simp] theorem writeReg_f_pc (v : Byte) : (writeReg .f v s).pc = s.pc := rfl
@[simp] theorem writeReg_f_sp (v : Byte) : (writeReg .f v s).sp = s.sp := rfl
@[simp] theorem writeReg_f_run (v : Byte) : (writeReg .f v s).run = s.run := rfl
@[simp] theorem writeReg_f_ps (v : Byte) : (writeReg .f v s).ps = s.ps := rfl
@[simp] theorem writeReg_f_ws (v : Byte) : (writeReg .f v s).ws = s.ws := rfl
@[simp] theorem writeReg_f_cfg (v : Byte) : (writeReg .f v s).cfg = s.cfg := rfl

/-! ## takeFault, haltRun -/

@[simp] theorem takeFault_b (c : FaultCause) : (takeFault c s).b = s.b := rfl
@[simp] theorem takeFault_c (c : FaultCause) : (takeFault c s).c = s.c := rfl
@[simp] theorem takeFault_d (c : FaultCause) : (takeFault c s).d = s.d := rfl
@[simp] theorem takeFault_e (c : FaultCause) : (takeFault c s).e = s.e := rfl
@[simp] theorem takeFault_h (c : FaultCause) : (takeFault c s).h = s.h := rfl
@[simp] theorem takeFault_l (c : FaultCause) : (takeFault c s).l = s.l := rfl
@[simp] theorem takeFault_a (c : FaultCause) : (takeFault c s).a = s.a := rfl
@[simp] theorem takeFault_f (c : FaultCause) : (takeFault c s).f = s.f := rfl
@[simp] theorem takeFault_pc (c : FaultCause) : (takeFault c s).pc = s.pc := rfl
@[simp] theorem takeFault_sp (c : FaultCause) : (takeFault c s).sp = s.sp := rfl
@[simp] theorem takeFault_run (c : FaultCause) : (takeFault c s).run = .faulted c := rfl
@[simp] theorem takeFault_ps (c : FaultCause) : (takeFault c s).ps = s.ps := rfl
@[simp] theorem takeFault_ws (c : FaultCause) : (takeFault c s).ws = s.ws := rfl
@[simp] theorem takeFault_cfg (c : FaultCause) : (takeFault c s).cfg = s.cfg := rfl
@[simp] theorem haltRun_b : (haltRun s).b = s.b := rfl
@[simp] theorem haltRun_c : (haltRun s).c = s.c := rfl
@[simp] theorem haltRun_d : (haltRun s).d = s.d := rfl
@[simp] theorem haltRun_e : (haltRun s).e = s.e := rfl
@[simp] theorem haltRun_h : (haltRun s).h = s.h := rfl
@[simp] theorem haltRun_l : (haltRun s).l = s.l := rfl
@[simp] theorem haltRun_a : (haltRun s).a = s.a := rfl
@[simp] theorem haltRun_f : (haltRun s).f = s.f := rfl
@[simp] theorem haltRun_pc : (haltRun s).pc = s.pc := rfl
@[simp] theorem haltRun_sp : (haltRun s).sp = s.sp := rfl
@[simp] theorem haltRun_run : (haltRun s).run = .halted := rfl
@[simp] theorem haltRun_ps : (haltRun s).ps = s.ps := rfl
@[simp] theorem haltRun_ws : (haltRun s).ws = s.ws := rfl
@[simp] theorem haltRun_cfg : (haltRun s).cfg = s.cfg := rfl

/-! ## writeReg of any register, and reads -/

@[simp] theorem writeReg_pc (r : Reg) (v : Byte) : (writeReg r v s).pc = s.pc := by cases r <;> rfl
@[simp] theorem writeReg_sp (r : Reg) (v : Byte) : (writeReg r v s).sp = s.sp := by cases r <;> rfl
@[simp] theorem writeReg_run (r : Reg) (v : Byte) : (writeReg r v s).run = s.run := by cases r <;> rfl
@[simp] theorem writeReg_ps (r : Reg) (v : Byte) : (writeReg r v s).ps = s.ps := by cases r <;> rfl
@[simp] theorem writeReg_ws (r : Reg) (v : Byte) : (writeReg r v s).ws = s.ws := by cases r <;> rfl
@[simp] theorem writeReg_cfg (r : Reg) (v : Byte) : (writeReg r v s).cfg = s.cfg := by cases r <;> rfl
@[simp] theorem readReg_b : readReg s .b = s.b := rfl
@[simp] theorem readReg_c : readReg s .c = s.c := rfl
@[simp] theorem readReg_d : readReg s .d = s.d := rfl
@[simp] theorem readReg_e : readReg s .e = s.e := rfl
@[simp] theorem readReg_h : readReg s .h = s.h := rfl
@[simp] theorem readReg_l : readReg s .l = s.l := rfl
@[simp] theorem readReg_a : readReg s .a = s.a := rfl
@[simp] theorem readReg_f : readReg s .f = s.f &&& flagMask := rfl

/-- A register other than `f` reads back as written (10_state.md R10). -/
theorem readReg_writeReg_same {r : Reg} (hr : r ≠ .f) (v : Byte) : readReg (writeReg r v s) r = v := by
  cases r <;> first | rfl | exact absurd rfl hr

/-- `f` reads back with its low nibble zero (R16). -/
theorem readReg_writeReg_f (v : Byte) : readReg (writeReg .f v s) .f = v &&& flagMask := by
  simp [flagMask, BitVec.and_assoc]

/-- A write leaves every other register alone. -/
theorem readReg_writeReg_other {r q : Reg} (h : q ≠ r) (v : Byte) :
    readReg (writeReg r v s) q = readReg s q := by
  cases r <;> cases q <;> first | rfl | exact absurd rfl h

end Sys2Proof.Machine
end

