-- ==== Sys2Proof/Laws/Ops.lean ====
section
/-! SUPPORT. One equation per shared operation that says everything it does to the state, for callers to
cite instead of unfolding it. -/

namespace Sys2Proof.Machine

variable (s : State)

theorem readPair_bc : readPair s .bc = joinBytes s.b s.c := rfl
theorem readPair_de : readPair s .de = joinBytes s.d s.e := rfl
theorem readPair_hl : readPair s .hl = joinBytes s.h s.l := rfl

theorem operandValue_reg (r : Reg) : operandValue s (.reg r) = readReg s r := rfl
theorem operandValue_memHL : operandValue s .memHL = s.ws.read (joinBytes s.h s.l) := rfl

/-! ## The ALU families -/

theorem writeResult_a (out : Byte × Byte) :
    writeResult .a out s = { s with a := out.1, f := out.2 &&& flagMask } := rfl

theorem addToA_eq (o : Operand8) :
    addToA o s = { s with
      a := (aluAdd s.cfg.hcMode s.a (operandValue s o).toNat).1
      f := (aluAdd s.cfg.hcMode s.a (operandValue s o).toNat).2 } := by
  simp [addToA, writeResult_a, aluAdd]

theorem adcToA_eq (o : Operand8) :
    adcToA o s = { s with
      a := (aluAdc s.cfg.hcMode s.a (operandValue s o) s.f).1
      f := (aluAdc s.cfg.hcMode s.a (operandValue s o) s.f).2 } := by
  simp [adcToA, writeResult_a, aluAdc, aluAdd, carryIn]

theorem andToA_eq (o : Operand8) :
    andToA o s = { s with
      a := (aluAnd s.a (operandValue s o)).1
      f := (aluAnd s.a (operandValue s o)).2 } := by
  simp [andToA, writeResult_a, aluAnd]

theorem aluCompare_mask (cfg : Config) (a v : Byte) :
    aluCompare cfg a v &&& flagMask = aluCompare cfg a v := by
  unfold aluCompare compareReference compareCorrected aluAdd
  cases cfg.cpMode
  · by_cases h : a = v <;> simp [h]
  · simp

theorem compareWithA_eq (o : Operand8) :
    compareWithA o s = { s with f := aluCompare s.cfg s.a (operandValue s o) } := by
  rw [compareWithA, readReg_a, writeReg, aluCompare_mask]

theorem incrementReg_eq (r : Reg) :
    incrementReg r s =
      { writeReg r (readReg s r + 1) s with f := (aluIncrement (readReg s r) s.f).2 } := by
  simp [incrementReg, writeResult, writeReg, aluIncrement]

/-! ## Stores, the push and control transfer -/

theorem storeA_eq (p : Pair) : storeA p s = { s with ws := s.ws.write (readPair s p) s.a } := rfl

theorem loadA_eq (p : Pair) : loadA p s = { s with a := s.ws.read (readPair s p) } := rfl

theorem memWrite16_eq (a v : Word) :
    memWrite16 a v s =
      { s with ws := (s.ws.write a (lowByte v)).write (a + 1) (highByte v) } := rfl

/-- The whole effect of a push (spec/43_control_transfer.md R187). -/
theorem push16_eq (v : Word) :
    push16 v s = { s with
      sp := s.sp - 2
      ws := (s.ws.write (s.sp - 1) (highByte v)).write (s.sp - 2) (lowByte v) } := by
  have h : s.sp - 1#16 - 1#16 = s.sp - 2#16 := by rw [BitVec.sub_sub]; rfl
  simp [push16, setSp, memWrite, h]

theorem callTo_eq (target : Word) :
    callTo target s = { s with
      pc := target
      sp := s.sp - 2
      ws := (s.ws.write (s.sp - 1) (highByte s.pc)).write (s.sp - 2) (lowByte s.pc) } := by
  rw [callTo, push16_eq]; rfl

/-! ## Fetch -/

theorem fetchByte_eq : fetchByte s = (s.ps.read s.pc, { s with pc := s.pc + 1 }) := rfl

/-- Fetch (spec/42_dispatch_loop.md R161) through the list decoder: the instruction at the front of the
three bytes from `pc` on, and `pc` past it; or one byte consumed. -/
theorem fetchInstr_eq :
    fetchInstr s = match decode (fetchWindow s) with
      | .ok (i, _) => (some i, { s with pc := s.pc + BitVec.ofNat 16 i.length })
      | .error _ => (none, { s with pc := s.pc + 1 }) := by
  have key : ∀ (op : Byte) (form : OpcodeForm), decodeOpcode op = some form →
      (∀ i, form = .op i → i.length = 1) ∧ (∀ mk, form = .d8 mk → ∀ x, (mk x).length = 2) ∧
      (∀ mk, form = .a16 mk → ∀ x, (mk x).length = 3) := by
    intro op form h
    unfold decodeOpcode at h
    split at h <;> first
      | (cases h; done)
      | (cases h
         refine ⟨?_, ?_, ?_⟩ <;> (intro _ hf; cases hf <;> first | rfl | (intro _; rfl)))
  have h2 : s.pc + 1#16 + 1#16 = s.pc + 2#16 := by rw [BitVec.add_assoc]; rfl
  have h3 : s.pc + 2#16 + 1#16 = s.pc + 3#16 := by rw [BitVec.add_assoc]; rfl
  have hp : ∀ w a, progRead (setPc w s) a = progRead s a := fun _ _ => rfl
  have hset : ∀ w v, setPc w (setPc v s) = setPc w s := fun _ _ => rfl
  rcases hd : decodeOpcode (progRead s s.pc) with _ | (i | mk | mk)
  · simp [fetchInstr, hd, fetchWindow, decode_none hd, fetchByte, setPc]
  · have hl := (key _ _ hd).1 i rfl
    simp [fetchInstr, hd, fetchWindow, decode_op hd, fetchByte, setPc, hl]
  · have hl := (key _ _ hd).2.1 mk rfl
    simp [fetchInstr, hd, fetchWindow, decode_d8 hd, fetchByte, hl, hp, hset, h2]
    rfl
  · have hl := (key _ _ hd).2.2 mk rfl
    simp [fetchInstr, hd, fetchWindow, decode_a16 hd, fetchByte, hl, hp, hset, h2, h3]
    rfl

end Sys2Proof.Machine
end

