-- ==== Sys2Proof/Laws/Frames.lean ====
section
/-! SUPPORT. The frame of every shared operation: each field it leaves alone, one lemma per field, so that
a proof about all instructions needs no unfolding. -/

namespace Sys2Proof.Machine

variable (s : State)

/-! ## addToA -/

@[simp] theorem addToA_b (o : Operand8) : (addToA o s).b = s.b := rfl
@[simp] theorem addToA_c (o : Operand8) : (addToA o s).c = s.c := rfl
@[simp] theorem addToA_d (o : Operand8) : (addToA o s).d = s.d := rfl
@[simp] theorem addToA_e (o : Operand8) : (addToA o s).e = s.e := rfl
@[simp] theorem addToA_h (o : Operand8) : (addToA o s).h = s.h := rfl
@[simp] theorem addToA_l (o : Operand8) : (addToA o s).l = s.l := rfl
@[simp] theorem addToA_pc (o : Operand8) : (addToA o s).pc = s.pc := rfl
@[simp] theorem addToA_sp (o : Operand8) : (addToA o s).sp = s.sp := rfl
@[simp] theorem addToA_run (o : Operand8) : (addToA o s).run = s.run := rfl
@[simp] theorem addToA_ps (o : Operand8) : (addToA o s).ps = s.ps := rfl
@[simp] theorem addToA_ws (o : Operand8) : (addToA o s).ws = s.ws := rfl
@[simp] theorem addToA_cfg (o : Operand8) : (addToA o s).cfg = s.cfg := rfl

/-! ## adcToA -/

@[simp] theorem adcToA_b (o : Operand8) : (adcToA o s).b = s.b := rfl
@[simp] theorem adcToA_c (o : Operand8) : (adcToA o s).c = s.c := rfl
@[simp] theorem adcToA_d (o : Operand8) : (adcToA o s).d = s.d := rfl
@[simp] theorem adcToA_e (o : Operand8) : (adcToA o s).e = s.e := rfl
@[simp] theorem adcToA_h (o : Operand8) : (adcToA o s).h = s.h := rfl
@[simp] theorem adcToA_l (o : Operand8) : (adcToA o s).l = s.l := rfl
@[simp] theorem adcToA_pc (o : Operand8) : (adcToA o s).pc = s.pc := rfl
@[simp] theorem adcToA_sp (o : Operand8) : (adcToA o s).sp = s.sp := rfl
@[simp] theorem adcToA_run (o : Operand8) : (adcToA o s).run = s.run := rfl
@[simp] theorem adcToA_ps (o : Operand8) : (adcToA o s).ps = s.ps := rfl
@[simp] theorem adcToA_ws (o : Operand8) : (adcToA o s).ws = s.ws := rfl
@[simp] theorem adcToA_cfg (o : Operand8) : (adcToA o s).cfg = s.cfg := rfl

/-! ## andToA -/

@[simp] theorem andToA_b (o : Operand8) : (andToA o s).b = s.b := rfl
@[simp] theorem andToA_c (o : Operand8) : (andToA o s).c = s.c := rfl
@[simp] theorem andToA_d (o : Operand8) : (andToA o s).d = s.d := rfl
@[simp] theorem andToA_e (o : Operand8) : (andToA o s).e = s.e := rfl
@[simp] theorem andToA_h (o : Operand8) : (andToA o s).h = s.h := rfl
@[simp] theorem andToA_l (o : Operand8) : (andToA o s).l = s.l := rfl
@[simp] theorem andToA_pc (o : Operand8) : (andToA o s).pc = s.pc := rfl
@[simp] theorem andToA_sp (o : Operand8) : (andToA o s).sp = s.sp := rfl
@[simp] theorem andToA_run (o : Operand8) : (andToA o s).run = s.run := rfl
@[simp] theorem andToA_ps (o : Operand8) : (andToA o s).ps = s.ps := rfl
@[simp] theorem andToA_ws (o : Operand8) : (andToA o s).ws = s.ws := rfl
@[simp] theorem andToA_cfg (o : Operand8) : (andToA o s).cfg = s.cfg := rfl

/-! ## compareWithA -/

@[simp] theorem compareWithA_b (o : Operand8) : (compareWithA o s).b = s.b := rfl
@[simp] theorem compareWithA_c (o : Operand8) : (compareWithA o s).c = s.c := rfl
@[simp] theorem compareWithA_d (o : Operand8) : (compareWithA o s).d = s.d := rfl
@[simp] theorem compareWithA_e (o : Operand8) : (compareWithA o s).e = s.e := rfl
@[simp] theorem compareWithA_h (o : Operand8) : (compareWithA o s).h = s.h := rfl
@[simp] theorem compareWithA_l (o : Operand8) : (compareWithA o s).l = s.l := rfl
@[simp] theorem compareWithA_a (o : Operand8) : (compareWithA o s).a = s.a := rfl
@[simp] theorem compareWithA_pc (o : Operand8) : (compareWithA o s).pc = s.pc := rfl
@[simp] theorem compareWithA_sp (o : Operand8) : (compareWithA o s).sp = s.sp := rfl
@[simp] theorem compareWithA_run (o : Operand8) : (compareWithA o s).run = s.run := rfl
@[simp] theorem compareWithA_ps (o : Operand8) : (compareWithA o s).ps = s.ps := rfl
@[simp] theorem compareWithA_ws (o : Operand8) : (compareWithA o s).ws = s.ws := rfl
@[simp] theorem compareWithA_cfg (o : Operand8) : (compareWithA o s).cfg = s.cfg := rfl

/-! ## storeA -/

@[simp] theorem storeA_b (p : Pair) : (storeA p s).b = s.b := rfl
@[simp] theorem storeA_c (p : Pair) : (storeA p s).c = s.c := rfl
@[simp] theorem storeA_d (p : Pair) : (storeA p s).d = s.d := rfl
@[simp] theorem storeA_e (p : Pair) : (storeA p s).e = s.e := rfl
@[simp] theorem storeA_h (p : Pair) : (storeA p s).h = s.h := rfl
@[simp] theorem storeA_l (p : Pair) : (storeA p s).l = s.l := rfl
@[simp] theorem storeA_a (p : Pair) : (storeA p s).a = s.a := rfl
@[simp] theorem storeA_f (p : Pair) : (storeA p s).f = s.f := rfl
@[simp] theorem storeA_pc (p : Pair) : (storeA p s).pc = s.pc := rfl
@[simp] theorem storeA_sp (p : Pair) : (storeA p s).sp = s.sp := rfl
@[simp] theorem storeA_run (p : Pair) : (storeA p s).run = s.run := rfl
@[simp] theorem storeA_ps (p : Pair) : (storeA p s).ps = s.ps := rfl
@[simp] theorem storeA_cfg (p : Pair) : (storeA p s).cfg = s.cfg := rfl

/-! ## loadA -/

@[simp] theorem loadA_b (p : Pair) : (loadA p s).b = s.b := rfl
@[simp] theorem loadA_c (p : Pair) : (loadA p s).c = s.c := rfl
@[simp] theorem loadA_d (p : Pair) : (loadA p s).d = s.d := rfl
@[simp] theorem loadA_e (p : Pair) : (loadA p s).e = s.e := rfl
@[simp] theorem loadA_h (p : Pair) : (loadA p s).h = s.h := rfl
@[simp] theorem loadA_l (p : Pair) : (loadA p s).l = s.l := rfl
@[simp] theorem loadA_f (p : Pair) : (loadA p s).f = s.f := rfl
@[simp] theorem loadA_pc (p : Pair) : (loadA p s).pc = s.pc := rfl
@[simp] theorem loadA_sp (p : Pair) : (loadA p s).sp = s.sp := rfl
@[simp] theorem loadA_run (p : Pair) : (loadA p s).run = s.run := rfl
@[simp] theorem loadA_ps (p : Pair) : (loadA p s).ps = s.ps := rfl
@[simp] theorem loadA_ws (p : Pair) : (loadA p s).ws = s.ws := rfl
@[simp] theorem loadA_cfg (p : Pair) : (loadA p s).cfg = s.cfg := rfl

/-! ## memWrite16 -/

@[simp] theorem memWrite16_b (w v : Word) : (memWrite16 w v s).b = s.b := by rw [memWrite16_eq]
@[simp] theorem memWrite16_c (w v : Word) : (memWrite16 w v s).c = s.c := by rw [memWrite16_eq]
@[simp] theorem memWrite16_d (w v : Word) : (memWrite16 w v s).d = s.d := by rw [memWrite16_eq]
@[simp] theorem memWrite16_e (w v : Word) : (memWrite16 w v s).e = s.e := by rw [memWrite16_eq]
@[simp] theorem memWrite16_h (w v : Word) : (memWrite16 w v s).h = s.h := by rw [memWrite16_eq]
@[simp] theorem memWrite16_l (w v : Word) : (memWrite16 w v s).l = s.l := by rw [memWrite16_eq]
@[simp] theorem memWrite16_a (w v : Word) : (memWrite16 w v s).a = s.a := by rw [memWrite16_eq]
@[simp] theorem memWrite16_f (w v : Word) : (memWrite16 w v s).f = s.f := by rw [memWrite16_eq]
@[simp] theorem memWrite16_pc (w v : Word) : (memWrite16 w v s).pc = s.pc := by rw [memWrite16_eq]
@[simp] theorem memWrite16_sp (w v : Word) : (memWrite16 w v s).sp = s.sp := by rw [memWrite16_eq]
@[simp] theorem memWrite16_run (w v : Word) : (memWrite16 w v s).run = s.run := by rw [memWrite16_eq]
@[simp] theorem memWrite16_ps (w v : Word) : (memWrite16 w v s).ps = s.ps := by rw [memWrite16_eq]
@[simp] theorem memWrite16_cfg (w v : Word) : (memWrite16 w v s).cfg = s.cfg := by rw [memWrite16_eq]

/-! ## push16 -/

@[simp] theorem push16_b (v : Word) : (push16 v s).b = s.b := by rw [push16_eq]
@[simp] theorem push16_c (v : Word) : (push16 v s).c = s.c := by rw [push16_eq]
@[simp] theorem push16_d (v : Word) : (push16 v s).d = s.d := by rw [push16_eq]
@[simp] theorem push16_e (v : Word) : (push16 v s).e = s.e := by rw [push16_eq]
@[simp] theorem push16_h (v : Word) : (push16 v s).h = s.h := by rw [push16_eq]
@[simp] theorem push16_l (v : Word) : (push16 v s).l = s.l := by rw [push16_eq]
@[simp] theorem push16_a (v : Word) : (push16 v s).a = s.a := by rw [push16_eq]
@[simp] theorem push16_f (v : Word) : (push16 v s).f = s.f := by rw [push16_eq]
@[simp] theorem push16_pc (v : Word) : (push16 v s).pc = s.pc := by rw [push16_eq]
@[simp] theorem push16_run (v : Word) : (push16 v s).run = s.run := by rw [push16_eq]
@[simp] theorem push16_ps (v : Word) : (push16 v s).ps = s.ps := by rw [push16_eq]
@[simp] theorem push16_cfg (v : Word) : (push16 v s).cfg = s.cfg := by rw [push16_eq]

/-! ## callTo -/

@[simp] theorem callTo_b (w : Word) : (callTo w s).b = s.b := by rw [callTo_eq]
@[simp] theorem callTo_c (w : Word) : (callTo w s).c = s.c := by rw [callTo_eq]
@[simp] theorem callTo_d (w : Word) : (callTo w s).d = s.d := by rw [callTo_eq]
@[simp] theorem callTo_e (w : Word) : (callTo w s).e = s.e := by rw [callTo_eq]
@[simp] theorem callTo_h (w : Word) : (callTo w s).h = s.h := by rw [callTo_eq]
@[simp] theorem callTo_l (w : Word) : (callTo w s).l = s.l := by rw [callTo_eq]
@[simp] theorem callTo_a (w : Word) : (callTo w s).a = s.a := by rw [callTo_eq]
@[simp] theorem callTo_f (w : Word) : (callTo w s).f = s.f := by rw [callTo_eq]
@[simp] theorem callTo_run (w : Word) : (callTo w s).run = s.run := by rw [callTo_eq]
@[simp] theorem callTo_ps (w : Word) : (callTo w s).ps = s.ps := by rw [callTo_eq]
@[simp] theorem callTo_cfg (w : Word) : (callTo w s).cfg = s.cfg := by rw [callTo_eq]

/-! ## writeResult and incrementReg -/

@[simp] theorem writeResult_pc (r : Reg) (out : Byte × Byte) : (writeResult r out s).pc = s.pc := by
  simp [writeResult]
@[simp] theorem writeResult_sp (r : Reg) (out : Byte × Byte) : (writeResult r out s).sp = s.sp := by
  simp [writeResult]
@[simp] theorem writeResult_run (r : Reg) (out : Byte × Byte) : (writeResult r out s).run = s.run := by
  simp [writeResult]
@[simp] theorem writeResult_ps (r : Reg) (out : Byte × Byte) : (writeResult r out s).ps = s.ps := by
  simp [writeResult]
@[simp] theorem writeResult_ws (r : Reg) (out : Byte × Byte) : (writeResult r out s).ws = s.ws := by
  simp [writeResult]
@[simp] theorem writeResult_cfg (r : Reg) (out : Byte × Byte) : (writeResult r out s).cfg = s.cfg := by
  simp [writeResult]
@[simp] theorem incrementReg_pc (r : Reg) : (incrementReg r s).pc = s.pc := by simp [incrementReg]
@[simp] theorem incrementReg_sp (r : Reg) : (incrementReg r s).sp = s.sp := by simp [incrementReg]
@[simp] theorem incrementReg_run (r : Reg) : (incrementReg r s).run = s.run := by simp [incrementReg]
@[simp] theorem incrementReg_ps (r : Reg) : (incrementReg r s).ps = s.ps := by simp [incrementReg]
@[simp] theorem incrementReg_ws (r : Reg) : (incrementReg r s).ws = s.ws := by simp [incrementReg]
@[simp] theorem incrementReg_cfg (r : Reg) : (incrementReg r s).cfg = s.cfg := by simp [incrementReg]
@[simp] theorem writeResult_a_b (out : Byte × Byte) : (writeResult .a out s).b = s.b := rfl
@[simp] theorem writeResult_a_c (out : Byte × Byte) : (writeResult .a out s).c = s.c := rfl
@[simp] theorem writeResult_a_d (out : Byte × Byte) : (writeResult .a out s).d = s.d := rfl
@[simp] theorem writeResult_a_e (out : Byte × Byte) : (writeResult .a out s).e = s.e := rfl
@[simp] theorem writeResult_a_h (out : Byte × Byte) : (writeResult .a out s).h = s.h := rfl
@[simp] theorem writeResult_a_l (out : Byte × Byte) : (writeResult .a out s).l = s.l := rfl

/-! ## jumpIf and callIf -/

@[simp] theorem jumpIf_b (cc : Cond) (w : Word) : (jumpIf cc w s).b = s.b := by
  unfold jumpIf; split <;> rfl
@[simp] theorem jumpIf_c (cc : Cond) (w : Word) : (jumpIf cc w s).c = s.c := by
  unfold jumpIf; split <;> rfl
@[simp] theorem jumpIf_d (cc : Cond) (w : Word) : (jumpIf cc w s).d = s.d := by
  unfold jumpIf; split <;> rfl
@[simp] theorem jumpIf_e (cc : Cond) (w : Word) : (jumpIf cc w s).e = s.e := by
  unfold jumpIf; split <;> rfl
@[simp] theorem jumpIf_h (cc : Cond) (w : Word) : (jumpIf cc w s).h = s.h := by
  unfold jumpIf; split <;> rfl
@[simp] theorem jumpIf_l (cc : Cond) (w : Word) : (jumpIf cc w s).l = s.l := by
  unfold jumpIf; split <;> rfl
@[simp] theorem jumpIf_a (cc : Cond) (w : Word) : (jumpIf cc w s).a = s.a := by
  unfold jumpIf; split <;> rfl
@[simp] theorem jumpIf_f (cc : Cond) (w : Word) : (jumpIf cc w s).f = s.f := by
  unfold jumpIf; split <;> rfl
@[simp] theorem jumpIf_sp (cc : Cond) (w : Word) : (jumpIf cc w s).sp = s.sp := by
  unfold jumpIf; split <;> rfl
@[simp] theorem jumpIf_run (cc : Cond) (w : Word) : (jumpIf cc w s).run = s.run := by
  unfold jumpIf; split <;> rfl
@[simp] theorem jumpIf_ps (cc : Cond) (w : Word) : (jumpIf cc w s).ps = s.ps := by
  unfold jumpIf; split <;> rfl
@[simp] theorem jumpIf_ws (cc : Cond) (w : Word) : (jumpIf cc w s).ws = s.ws := by
  unfold jumpIf; split <;> rfl
@[simp] theorem jumpIf_cfg (cc : Cond) (w : Word) : (jumpIf cc w s).cfg = s.cfg := by
  unfold jumpIf; split <;> rfl
@[simp] theorem callIf_b (cc : Cond) (w : Word) : (callIf cc w s).b = s.b := by
  unfold callIf; split <;> simp
@[simp] theorem callIf_c (cc : Cond) (w : Word) : (callIf cc w s).c = s.c := by
  unfold callIf; split <;> simp
@[simp] theorem callIf_d (cc : Cond) (w : Word) : (callIf cc w s).d = s.d := by
  unfold callIf; split <;> simp
@[simp] theorem callIf_e (cc : Cond) (w : Word) : (callIf cc w s).e = s.e := by
  unfold callIf; split <;> simp
@[simp] theorem callIf_h (cc : Cond) (w : Word) : (callIf cc w s).h = s.h := by
  unfold callIf; split <;> simp
@[simp] theorem callIf_l (cc : Cond) (w : Word) : (callIf cc w s).l = s.l := by
  unfold callIf; split <;> simp
@[simp] theorem callIf_a (cc : Cond) (w : Word) : (callIf cc w s).a = s.a := by
  unfold callIf; split <;> simp
@[simp] theorem callIf_f (cc : Cond) (w : Word) : (callIf cc w s).f = s.f := by
  unfold callIf; split <;> simp
@[simp] theorem callIf_run (cc : Cond) (w : Word) : (callIf cc w s).run = s.run := by
  unfold callIf; split <;> simp
@[simp] theorem callIf_ps (cc : Cond) (w : Word) : (callIf cc w s).ps = s.ps := by
  unfold callIf; split <;> simp
@[simp] theorem callIf_cfg (cc : Cond) (w : Word) : (callIf cc w s).cfg = s.cfg := by
  unfold callIf; split <;> simp

/-! ## What they write: the conditions, `pc`, `sp` and the stored bytes -/

@[simp] theorem condHolds_nz : condHolds s .nz = !flagZ s.f := by simp [condHolds]
@[simp] theorem condHolds_z : condHolds s .z = flagZ s.f := by simp [condHolds]
@[simp] theorem condHolds_nc : condHolds s .nc = !flagC s.f := by simp [condHolds]
@[simp] theorem condHolds_c : condHolds s .c = flagC s.f := by simp [condHolds]

@[simp] theorem callTo_pc (w : Word) : (callTo w s).pc = w := by rw [callTo_eq]
@[simp] theorem callTo_sp (w : Word) : (callTo w s).sp = s.sp - 2 := by rw [callTo_eq]
@[simp] theorem jumpIf_pc (cc : Cond) (w : Word) :
    (jumpIf cc w s).pc = if condHolds s cc then w else s.pc := by
  unfold jumpIf; split <;> rfl
@[simp] theorem callIf_pc (cc : Cond) (w : Word) :
    (callIf cc w s).pc = if condHolds s cc then w else s.pc := by
  unfold callIf; split <;> simp
@[simp] theorem callIf_sp (cc : Cond) (w : Word) :
    (callIf cc w s).sp = if condHolds s cc then s.sp - 2 else s.sp := by
  unfold callIf; split <;> simp
@[simp] theorem callIf_ws (cc : Cond) (w : Word) :
    (callIf cc w s).ws = if condHolds s cc then (callTo w s).ws else s.ws := by
  unfold callIf; split <;> simp

end Sys2Proof.Machine
end

