-- ==== Sys2Proof/Laws/Launch.lean ====
section
/-! SUPPORT. The launch and the status outputs: what one launch value leaves alone, how launch values
compose, and the outputs in each run state. -/

namespace Sys2Proof.Machine

variable (s : State)

/-! ## One launch value -/

@[simp] theorem applyLaunchWrite_reg (r : Reg) (v : Byte) :
    applyLaunchWrite s (.reg r v) = writeReg r v s := rfl
@[simp] theorem applyLaunchWrite_pair (p : Pair) (v : Word) :
    applyLaunchWrite s (.pair p v) = writePair p v s := rfl
@[simp] theorem applyLaunchWrite_pc (v : Word) : applyLaunchWrite s (.pc v) = { s with pc := v } := rfl
@[simp] theorem applyLaunchWrite_sp (v : Word) : applyLaunchWrite s (.sp v) = { s with sp := v } := rfl

theorem writePair_bc (v : Word) :
    writePair .bc v s = { s with b := highByte v, c := lowByte v } := rfl
theorem writePair_de (v : Word) :
    writePair .de v s = { s with d := highByte v, e := lowByte v } := rfl
theorem writePair_hl (v : Word) :
    writePair .hl v s = { s with h := highByte v, l := lowByte v } := rfl

/-! ## The launch as a sequence of values -/

theorem launch_nil (ps ws : Word → Byte) :
    State.launch ps ws [] s = { s with ps := Memory.ofImage ps, ws := Memory.ofImage ws } := rfl

theorem launch_append (ps ws : Word → Byte) (xs ys : List LaunchWrite) :
    State.launch ps ws (xs ++ ys) s = ys.foldl applyLaunchWrite (State.launch ps ws xs s) :=
  List.foldl_append

/-- What every launch value leaves alone, a list of them leaves alone. -/
theorem foldl_applyLaunchWrite_keeps {α : Type} (get : State → α) (writes : List LaunchWrite)
    (keeps : ∀ w ∈ writes, ∀ t : State, get (applyLaunchWrite t w) = get t) (t : State) :
    get (writes.foldl applyLaunchWrite t) = get t := by
  induction writes generalizing t with
  | nil => rfl
  | cons w rest ih =>
    rw [List.foldl_cons, ih (fun x hx => keeps x (List.mem_cons_of_mem _ hx)), keeps w List.mem_cons_self]

/-! ## The status outputs, by run state -/

theorem status_of_running {s : State} (h : s.run = .running) :
    s.isHalted = false ∧ s.isFaulted = false ∧ s.cause = 0 := by
  simp [State.isHalted, State.isFaulted, State.cause, h]

theorem status_of_halted {s : State} (h : s.run = .halted) :
    s.isHalted = true ∧ s.isFaulted = false ∧ s.cause = 0 := by
  simp [State.isHalted, State.isFaulted, State.cause, h]

theorem status_of_faulted {s : State} {cause : FaultCause} (h : s.run = .faulted cause) :
    s.isHalted = false ∧ s.isFaulted = true ∧ s.cause = cause.number := by
  simp [State.isHalted, State.isFaulted, State.cause, h]

end Sys2Proof.Machine
end

