-- ==== Sys2Proof/Laws/PerInstr.lean ====
section
/-! SUPPORT. Per-instruction facts about the syntax: one lemma per constructor of `Instr`. -/

namespace Sys2Proof.Laws.OpcodeLength

/-- The opcode byte of an instruction is in the opcode map, and the map's length for it is the
instruction's length (spec/30_encoding.md R68, R71, R73). -/
def Statement (i : Instr) : Prop := (decodeOpcode i.opcode).map OpcodeForm.length = some i.length

theorem addAB : Statement (.addAB) := rfl
theorem addAC : Statement (.addAC) := rfl
theorem addAD : Statement (.addAD) := rfl
theorem addAE : Statement (.addAE) := rfl
theorem addAH : Statement (.addAH) := rfl
theorem addAL : Statement (.addAL) := rfl
theorem addAMemHL : Statement (.addAMemHL) := rfl
theorem addAA : Statement (.addAA) := rfl
theorem adcAB : Statement (.adcAB) := rfl
theorem adcAC : Statement (.adcAC) := rfl
theorem adcAD : Statement (.adcAD) := rfl
theorem adcAE : Statement (.adcAE) := rfl
theorem adcAH : Statement (.adcAH) := rfl
theorem adcAL : Statement (.adcAL) := rfl
theorem adcAMemHL : Statement (.adcAMemHL) := rfl
theorem adcAA : Statement (.adcAA) := rfl
theorem andAB : Statement (.andAB) := rfl
theorem andAC : Statement (.andAC) := rfl
theorem andAD : Statement (.andAD) := rfl
theorem andAE : Statement (.andAE) := rfl
theorem andAH : Statement (.andAH) := rfl
theorem andAL : Statement (.andAL) := rfl
theorem andAMemHL : Statement (.andAMemHL) := rfl
theorem andAA : Statement (.andAA) := rfl
theorem cpAB : Statement (.cpAB) := rfl
theorem cpAC : Statement (.cpAC) := rfl
theorem cpAD : Statement (.cpAD) := rfl
theorem cpAE : Statement (.cpAE) := rfl
theorem cpAH : Statement (.cpAH) := rfl
theorem cpAL : Statement (.cpAL) := rfl
theorem cpAMemHL : Statement (.cpAMemHL) := rfl
theorem cpAA : Statement (.cpAA) := rfl
theorem incB : Statement (.incB) := rfl
theorem incC : Statement (.incC) := rfl
theorem incD : Statement (.incD) := rfl
theorem incE : Statement (.incE) := rfl
theorem incH : Statement (.incH) := rfl
theorem incL : Statement (.incL) := rfl
theorem incA : Statement (.incA) := rfl
theorem daa : Statement (.daa) := rfl
theorem cpl : Statement (.cpl) := rfl
theorem ccf : Statement (.ccf) := rfl
theorem ldB (d8 : Byte) : Statement (.ldB d8) := rfl
theorem ldC (d8 : Byte) : Statement (.ldC d8) := rfl
theorem ldD (d8 : Byte) : Statement (.ldD d8) := rfl
theorem ldE (d8 : Byte) : Statement (.ldE d8) := rfl
theorem ldH (d8 : Byte) : Statement (.ldH d8) := rfl
theorem ldL (d8 : Byte) : Statement (.ldL d8) := rfl
theorem ldA (d8 : Byte) : Statement (.ldA d8) := rfl
theorem ldMemBCA : Statement (.ldMemBCA) := rfl
theorem ldMemDEA : Statement (.ldMemDEA) := rfl
theorem ldMemHLA : Statement (.ldMemHLA) := rfl
theorem ldAMemBC : Statement (.ldAMemBC) := rfl
theorem ldAMemDE : Statement (.ldAMemDE) := rfl
theorem ldAMemHL : Statement (.ldAMemHL) := rfl
theorem ldMemA16SP (a16 : Word) : Statement (.ldMemA16SP a16) := rfl
theorem jp (a16 : Word) : Statement (.jp a16) := rfl
theorem jpNZ (a16 : Word) : Statement (.jpNZ a16) := rfl
theorem jpZ (a16 : Word) : Statement (.jpZ a16) := rfl
theorem jpNC (a16 : Word) : Statement (.jpNC a16) := rfl
theorem jpC (a16 : Word) : Statement (.jpC a16) := rfl
theorem jpHL : Statement (.jpHL) := rfl
theorem call (a16 : Word) : Statement (.call a16) := rfl
theorem callNZ (a16 : Word) : Statement (.callNZ a16) := rfl
theorem callZ (a16 : Word) : Statement (.callZ a16) := rfl
theorem callNC (a16 : Word) : Statement (.callNC a16) := rfl
theorem callC (a16 : Word) : Statement (.callC a16) := rfl
theorem halt : Statement (.halt) := rfl
theorem prefixCB : Statement (.prefixCB) := rfl

end Sys2Proof.Laws.OpcodeLength
end

