-- ==== Sys2Proof/Laws/Step.lean ====
section
/-! SUPPORT. What `exec` and `step` can do: each instruction as one application of a shared operation, and
the inversion of a step. -/

namespace Sys2Proof.Machine

variable (s : State)

@[simp] theorem exec_addAB : exec .addAB s = .next (addToA (.reg .b) s) := rfl
@[simp] theorem exec_addAC : exec .addAC s = .next (addToA (.reg .c) s) := rfl
@[simp] theorem exec_addAD : exec .addAD s = .next (addToA (.reg .d) s) := rfl
@[simp] theorem exec_addAE : exec .addAE s = .next (addToA (.reg .e) s) := rfl
@[simp] theorem exec_addAH : exec .addAH s = .next (addToA (.reg .h) s) := rfl
@[simp] theorem exec_addAL : exec .addAL s = .next (addToA (.reg .l) s) := rfl
@[simp] theorem exec_addAMemHL : exec .addAMemHL s = .next (addToA .memHL s) := rfl
@[simp] theorem exec_addAA : exec .addAA s = .next (addToA (.reg .a) s) := rfl
@[simp] theorem exec_adcAB : exec .adcAB s = .next (adcToA (.reg .b) s) := rfl
@[simp] theorem exec_adcAC : exec .adcAC s = .next (adcToA (.reg .c) s) := rfl
@[simp] theorem exec_adcAD : exec .adcAD s = .next (adcToA (.reg .d) s) := rfl
@[simp] theorem exec_adcAE : exec .adcAE s = .next (adcToA (.reg .e) s) := rfl
@[simp] theorem exec_adcAH : exec .adcAH s = .next (adcToA (.reg .h) s) := rfl
@[simp] theorem exec_adcAL : exec .adcAL s = .next (adcToA (.reg .l) s) := rfl
@[simp] theorem exec_adcAMemHL : exec .adcAMemHL s = .next (adcToA .memHL s) := rfl
@[simp] theorem exec_adcAA : exec .adcAA s = .next (adcToA (.reg .a) s) := rfl
@[simp] theorem exec_andAB : exec .andAB s = .next (andToA (.reg .b) s) := rfl
@[simp] theorem exec_andAC : exec .andAC s = .next (andToA (.reg .c) s) := rfl
@[simp] theorem exec_andAD : exec .andAD s = .next (andToA (.reg .d) s) := rfl
@[simp] theorem exec_andAE : exec .andAE s = .next (andToA (.reg .e) s) := rfl
@[simp] theorem exec_andAH : exec .andAH s = .next (andToA (.reg .h) s) := rfl
@[simp] theorem exec_andAL : exec .andAL s = .next (andToA (.reg .l) s) := rfl
@[simp] theorem exec_andAMemHL : exec .andAMemHL s = .next (andToA .memHL s) := rfl
@[simp] theorem exec_andAA : exec .andAA s = .next (andToA (.reg .a) s) := rfl
@[simp] theorem exec_cpAB : exec .cpAB s = .next (compareWithA (.reg .b) s) := rfl
@[simp] theorem exec_cpAC : exec .cpAC s = .next (compareWithA (.reg .c) s) := rfl
@[simp] theorem exec_cpAD : exec .cpAD s = .next (compareWithA (.reg .d) s) := rfl
@[simp] theorem exec_cpAE : exec .cpAE s = .next (compareWithA (.reg .e) s) := rfl
@[simp] theorem exec_cpAH : exec .cpAH s = .next (compareWithA (.reg .h) s) := rfl
@[simp] theorem exec_cpAL : exec .cpAL s = .next (compareWithA (.reg .l) s) := rfl
@[simp] theorem exec_cpAMemHL : exec .cpAMemHL s = .next (compareWithA .memHL s) := rfl
@[simp] theorem exec_cpAA : exec .cpAA s = .next (compareWithA (.reg .a) s) := rfl
@[simp] theorem exec_incB : exec .incB s = .next (incrementReg .b s) := rfl
@[simp] theorem exec_incC : exec .incC s = .next (incrementReg .c s) := rfl
@[simp] theorem exec_incD : exec .incD s = .next (incrementReg .d s) := rfl
@[simp] theorem exec_incE : exec .incE s = .next (incrementReg .e s) := rfl
@[simp] theorem exec_incH : exec .incH s = .next (incrementReg .h s) := rfl
@[simp] theorem exec_incL : exec .incL s = .next (incrementReg .l s) := rfl
@[simp] theorem exec_incA : exec .incA s = .next (incrementReg .a s) := rfl
@[simp] theorem exec_daa : exec .daa s = .next (writeResult .a (aluDaa (readReg s .a) (readReg s .f)) s) := rfl
@[simp] theorem exec_cpl : exec .cpl s = .next (writeResult .a (aluComplement (readReg s .a) (readReg s .f)) s) := rfl
@[simp] theorem exec_ccf : exec .ccf s = .next (writeReg .f (flipCarry (readReg s .f)) s) := rfl
@[simp] theorem exec_ldB (d8 : Byte) : exec (.ldB d8) s = .next (writeReg .b d8 s) := rfl
@[simp] theorem exec_ldC (d8 : Byte) : exec (.ldC d8) s = .next (writeReg .c d8 s) := rfl
@[simp] theorem exec_ldD (d8 : Byte) : exec (.ldD d8) s = .next (writeReg .d d8 s) := rfl
@[simp] theorem exec_ldE (d8 : Byte) : exec (.ldE d8) s = .next (writeReg .e d8 s) := rfl
@[simp] theorem exec_ldH (d8 : Byte) : exec (.ldH d8) s = .next (writeReg .h d8 s) := rfl
@[simp] theorem exec_ldL (d8 : Byte) : exec (.ldL d8) s = .next (writeReg .l d8 s) := rfl
@[simp] theorem exec_ldA (d8 : Byte) : exec (.ldA d8) s = .next (writeReg .a d8 s) := rfl
@[simp] theorem exec_ldMemBCA : exec .ldMemBCA s = .next (storeA .bc s) := rfl
@[simp] theorem exec_ldMemDEA : exec .ldMemDEA s = .next (storeA .de s) := rfl
@[simp] theorem exec_ldMemHLA : exec .ldMemHLA s = .next (storeA .hl s) := rfl
@[simp] theorem exec_ldAMemBC : exec .ldAMemBC s = .next (loadA .bc s) := rfl
@[simp] theorem exec_ldAMemDE : exec .ldAMemDE s = .next (loadA .de s) := rfl
@[simp] theorem exec_ldAMemHL : exec .ldAMemHL s = .next (loadA .hl s) := rfl
@[simp] theorem exec_ldMemA16SP (a16 : Word) : exec (.ldMemA16SP a16) s = .next (memWrite16 a16 s.sp s) := rfl
@[simp] theorem exec_jp (a16 : Word) : exec (.jp a16) s = .next (setPc a16 s) := rfl
@[simp] theorem exec_jpNZ (a16 : Word) : exec (.jpNZ a16) s = .next (jumpIf .nz a16 s) := rfl
@[simp] theorem exec_jpZ (a16 : Word) : exec (.jpZ a16) s = .next (jumpIf .z a16 s) := rfl
@[simp] theorem exec_jpNC (a16 : Word) : exec (.jpNC a16) s = .next (jumpIf .nc a16 s) := rfl
@[simp] theorem exec_jpC (a16 : Word) : exec (.jpC a16) s = .next (jumpIf .c a16 s) := rfl
@[simp] theorem exec_jpHL : exec .jpHL s = .next (setPc (readPair s .hl) s) := rfl
@[simp] theorem exec_call (a16 : Word) : exec (.call a16) s = .next (callTo a16 s) := rfl
@[simp] theorem exec_callNZ (a16 : Word) : exec (.callNZ a16) s = .next (callIf .nz a16 s) := rfl
@[simp] theorem exec_callZ (a16 : Word) : exec (.callZ a16) s = .next (callIf .z a16 s) := rfl
@[simp] theorem exec_callNC (a16 : Word) : exec (.callNC a16) s = .next (callIf .nc a16 s) := rfl
@[simp] theorem exec_callC (a16 : Word) : exec (.callC a16) s = .next (callIf .c a16 s) := rfl
@[simp] theorem exec_halt : exec .halt s = .next (haltRun s) := rfl
@[simp] theorem exec_prefixCB : exec .prefixCB s = .next (takeFault .unimplementedPrefix s) := rfl

/-- A running machine steps by fetch and execution (spec/42_dispatch_loop.md R161). -/
theorem step_of_running {s : State} (h : s.run = .running) :
    step s = match fetchInstr s with
      | (some i, s') => exec i s'
      | (none, s') => .next (takeFault .unimplementedOpcode s') := by
  cases s; dsimp only at h; subst h; rfl

/-- Everything a step with a next state can be: the machine was running, and it executed the instruction
it fetched or took the fault with cause 1. -/
theorem step_next_cases {s t : State} (h : step s = .next t) :
    s.run = .running ∧
    ((∃ i s', fetchInstr s = (some i, s') ∧ exec i s' = .next t) ∨
     (∃ s', fetchInstr s = (none, s') ∧ t = takeFault .unimplementedOpcode s')) := by
  rcases hr : s.run with _ | _ | c
  · rw [step_of_running hr] at h
    refine ⟨rfl, ?_⟩
    rcases hf : fetchInstr s with ⟨_ | i, s'⟩
    · rw [hf] at h
      exact .inr ⟨s', rfl, (Host.Outcome.next.inj h).symm⟩
    · rw [hf] at h
      exact .inl ⟨i, s', rfl, h⟩
  · simp [step, hr] at h
  · simp [step, hr] at h

end Sys2Proof.Machine
end

