-- ==== Sys2Proof/Tests/Slice0.lean ====
section
/-! SUPPORT. Tests and witnesses. Expected results are the vectors of spec/95_test_vectors.md (named in each
comment) and the words of spec/30_encoding.md; a witness shows a state and operands that meet all the
hypotheses of one obligation. -/

namespace Sys2Proof.Tests

open Sys2Proof Sys2Proof.Machine Sys2Proof.Claims

/-- The next state of an outcome, to compare. -/
def nextState : Host.Outcome State Fault Refusal → Option State
  | .next t => some t
  | .fault _ => none
  | .refused _ => none

/-- `s` with these bytes in program space from `pc` on. -/
def place (bytes : List Byte) (s : State) : State := { s with ps := Memory.writeBytes [] s.pc bytes }

/-- `s` with one byte of working space. -/
def withByte (a : Word) (v : Byte) (s : State) : State := { s with ws := s.ws.write a v }

/-- One step over these bytes at `pc` leads from `s` to `t` (whose program space is that of `s`). -/
def runs (bytes : List Byte) (s t : State) : Bool :=
  nextState (step (place bytes s)) == some { t with ps := (place bytes s).ps }

/-- The reset state in the reference and in the corrected configuration. -/
def ref : State := State.reset
def cor : State := { State.reset with cfg := Config.corrected }

/-- Eight different register values, to tell the operands apart. -/
def distinct : State :=
  { State.reset with a := 0x01, b := 0x02, c := 0x03, d := 0x04, e := 0x05, h := 0x06, l := 0x07, f := 0x50 }

/-! ## Decoding: words from 30_encoding.md (opcode bytes bit by bit, base and r-field or cc-field) -/

theorem test_decode_add :
    decode [0b10000000] = .ok (.addAB, []) ∧
    decode [0b10000001] = .ok (.addAC, []) ∧
    decode [0b10000010] = .ok (.addAD, []) ∧
    decode [0b10000011] = .ok (.addAE, []) ∧
    decode [0b10000100] = .ok (.addAH, []) ∧
    decode [0b10000101] = .ok (.addAL, []) ∧
    decode [0b10000110] = .ok (.addAMemHL, []) ∧
    decode [0b10000111] = .ok (.addAA, []) := by decide

theorem test_decode_adc :
    decode [0b10001000] = .ok (.adcAB, []) ∧
    decode [0b10001001] = .ok (.adcAC, []) ∧
    decode [0b10001010] = .ok (.adcAD, []) ∧
    decode [0b10001011] = .ok (.adcAE, []) ∧
    decode [0b10001100] = .ok (.adcAH, []) ∧
    decode [0b10001101] = .ok (.adcAL, []) ∧
    decode [0b10001110] = .ok (.adcAMemHL, []) ∧
    decode [0b10001111] = .ok (.adcAA, []) := by decide

theorem test_decode_and :
    decode [0b10100000] = .ok (.andAB, []) ∧
    decode [0b10100001] = .ok (.andAC, []) ∧
    decode [0b10100010] = .ok (.andAD, []) ∧
    decode [0b10100011] = .ok (.andAE, []) ∧
    decode [0b10100100] = .ok (.andAH, []) ∧
    decode [0b10100101] = .ok (.andAL, []) ∧
    decode [0b10100110] = .ok (.andAMemHL, []) ∧
    decode [0b10100111] = .ok (.andAA, []) := by decide

theorem test_decode_cp :
    decode [0b10111000] = .ok (.cpAB, []) ∧
    decode [0b10111001] = .ok (.cpAC, []) ∧
    decode [0b10111010] = .ok (.cpAD, []) ∧
    decode [0b10111011] = .ok (.cpAE, []) ∧
    decode [0b10111100] = .ok (.cpAH, []) ∧
    decode [0b10111101] = .ok (.cpAL, []) ∧
    decode [0b10111110] = .ok (.cpAMemHL, []) ∧
    decode [0b10111111] = .ok (.cpAA, []) := by decide

theorem test_decode_inc :
    decode [0b00000100] = .ok (.incB, []) ∧
    decode [0b00001100] = .ok (.incC, []) ∧
    decode [0b00010100] = .ok (.incD, []) ∧
    decode [0b00011100] = .ok (.incE, []) ∧
    decode [0b00100100] = .ok (.incH, []) ∧
    decode [0b00101100] = .ok (.incL, []) ∧
    decode [0b00111100] = .ok (.incA, []) := by decide

theorem test_decode_ld_imm :
    decode [0b00000110, 0xA0, 0xFF] = .ok (.ldB 0xA0, [0xFF]) ∧
    decode [0b00001110, 0xA1, 0xFF] = .ok (.ldC 0xA1, [0xFF]) ∧
    decode [0b00010110, 0xA2, 0xFF] = .ok (.ldD 0xA2, [0xFF]) ∧
    decode [0b00011110, 0xA3, 0xFF] = .ok (.ldE 0xA3, [0xFF]) ∧
    decode [0b00100110, 0xA4, 0xFF] = .ok (.ldH 0xA4, [0xFF]) ∧
    decode [0b00101110, 0xA5, 0xFF] = .ok (.ldL 0xA5, [0xFF]) ∧
    decode [0b00111110, 0xA7, 0xFF] = .ok (.ldA 0xA7, [0xFF]) := by decide

theorem test_decode_ld_mem :
    decode [0b00000010] = .ok (.ldMemBCA, []) ∧
    decode [0b00010010] = .ok (.ldMemDEA, []) ∧
    decode [0b01110111] = .ok (.ldMemHLA, []) ∧
    decode [0b00001010] = .ok (.ldAMemBC, []) ∧
    decode [0b00011010] = .ok (.ldAMemDE, []) ∧
    decode [0b01111110] = .ok (.ldAMemHL, []) ∧
    decode [0b00001000, 0x34, 0x12] = .ok (.ldMemA16SP 0x1234, []) := by decide

theorem test_decode_jump :
    decode [0b11000011, 0x34, 0x12] = .ok (.jp 0x1234, []) ∧
    decode [0b11101001] = .ok (.jpHL, []) ∧
    decode [0b11000010, 0xFE, 0xCA] = .ok (.jpNZ 0xCAFE, []) ∧
    decode [0b11001010, 0xFE, 0xCA] = .ok (.jpZ 0xCAFE, []) ∧
    decode [0b11010010, 0xFE, 0xCA] = .ok (.jpNC 0xCAFE, []) ∧
    decode [0b11011010, 0xFE, 0xCA] = .ok (.jpC 0xCAFE, []) := by decide

theorem test_decode_call :
    decode [0b11001101, 0x34, 0x12] = .ok (.call 0x1234, []) ∧
    decode [0b11000100, 0xFE, 0xCA] = .ok (.callNZ 0xCAFE, []) ∧
    decode [0b11001100, 0xFE, 0xCA] = .ok (.callZ 0xCAFE, []) ∧
    decode [0b11010100, 0xFE, 0xCA] = .ok (.callNC 0xCAFE, []) ∧
    decode [0b11011100, 0xFE, 0xCA] = .ok (.callC 0xCAFE, []) := by decide

theorem test_decode_misc :
    decode [0b00100111] = .ok (.daa, []) ∧ decode [0b00101111] = .ok (.cpl, []) ∧
    decode [0b00111111] = .ok (.ccf, []) ∧ decode [0b01110110] = .ok (.halt, []) ∧
    decode [0b11001011, 0x37] = .ok (.prefixCB, [0x37]) := by decide

/-- The byte patterns next to the implemented ones that the spec shuts out (30_encoding.md R64, R69):
`INC (HL)`, `LD (HL),d8`, `ADD A,d8`, `RET`, `SUB B`, `LD B,B`, `SCF`, `NOP` (vectors DS3 to DS13). -/
theorem test_decode_rejects :
    ∀ op ∈ [0x34, 0x36, 0xC6, 0xC9, 0x90, 0x40, 0x37, 0x00, 0xFF, 0xD3],
      decode [op, 0x01, 0x02] = .error (.unimplementedOpcode op) := by decide

theorem test_decode_short :
    decode [] = .error .noOpcode ∧ decode [0x06] = .error (.missingOperand 0x06) ∧
    decode [0xC3, 0x34] = .error (.missingOperand 0xC3) := by decide

/-- 68 bytes name an instruction, one is the prefix, 187 name nothing (95_test_vectors.md section 2.12). -/
theorem test_opcode_counts :
    ((List.range 256).filter fun op => (decodeOpcode (BitVec.ofNat 8 op)).isSome).length = 69 := by
  decide

/-- The host's numbering of the opcode table's bits, and operand bytes of zeros. -/
theorem test_table_words :
    decodeTableWord 24 0x1234C3 = some (.jp 0x1234) ∧ decodeTableWord 16 0x5A06 = some (.ldB 0x5A) ∧
    decodeTableWord 8 0xCD = some (.call 0x0000) ∧ decodeTableWord 8 0x34 = none := by decide

/-! ## WellFormed: no `Instr` term is ill-formed, so the smoke test is on images -/

theorem test_image_too_long : imageWellFormed (List.replicate 65537 0x00) = false := by
  rw [imageWellFormed, List.length_replicate]; decide

theorem test_image_longest : imageWellFormed (List.replicate 65536 0x00) = true := by
  rw [imageWellFormed, List.length_replicate]; decide

theorem test_operands_fit : Instr.wellFormed (.ldB 0xFF) = true ∧ Instr.wellFormed (.jp 0xFFFF) = true := by
  decide

/-! ## The flag engine: 95_test_vectors.md sections 2.1 to 2.7 -/

/-- AD1 to AD16, `POST_UPDATE` then `PRE_UPDATE`. -/
theorem test_add_vectors :
    aluAdd .postUpdate 0x00 0x00 = (0x00, 0x80) ∧ aluAdd .preUpdate 0x00 0x00 = (0x00, 0x80) ∧
    aluAdd .postUpdate 0x00 0x08 = (0x08, 0x20) ∧ aluAdd .preUpdate 0x00 0x08 = (0x08, 0x00) ∧
    aluAdd .postUpdate 0x0F 0x01 = (0x10, 0x00) ∧ aluAdd .preUpdate 0x0F 0x01 = (0x10, 0x20) ∧
    aluAdd .postUpdate 0x3A 0xC6 = (0x00, 0x90) ∧ aluAdd .preUpdate 0x3A 0xC6 = (0x00, 0xB0) ∧
    aluAdd .postUpdate 0xFF 0x01 = (0x00, 0x90) ∧ aluAdd .preUpdate 0xFF 0x01 = (0x00, 0xB0) ∧
    aluAdd .postUpdate 0xFF 0xFF = (0xFE, 0x30) ∧ aluAdd .preUpdate 0xFF 0xFF = (0xFE, 0x30) ∧
    aluAdd .postUpdate 0x80 0x80 = (0x00, 0x90) ∧ aluAdd .preUpdate 0x80 0x80 = (0x00, 0x90) ∧
    aluAdd .postUpdate 0x08 0x08 = (0x10, 0x00) ∧ aluAdd .preUpdate 0x08 0x08 = (0x10, 0x20) ∧
    aluAdd .postUpdate 0x7F 0x01 = (0x80, 0x00) ∧ aluAdd .preUpdate 0x7F 0x01 = (0x80, 0x20) ∧
    aluAdd .postUpdate 0x12 0x34 = (0x46, 0x00) ∧ aluAdd .preUpdate 0x12 0x34 = (0x46, 0x00) ∧
    aluAdd .postUpdate 0x0E 0x02 = (0x10, 0x00) ∧ aluAdd .preUpdate 0x0E 0x02 = (0x10, 0x20) ∧
    aluAdd .postUpdate 0x99 0x01 = (0x9A, 0x00) ∧ aluAdd .preUpdate 0x99 0x01 = (0x9A, 0x00) ∧
    aluAdd .postUpdate 0x38 0x45 = (0x7D, 0x20) ∧ aluAdd .preUpdate 0x38 0x45 = (0x7D, 0x00) ∧
    aluAdd .postUpdate 0x00 0xFF = (0xFF, 0x20) ∧ aluAdd .preUpdate 0x00 0xFF = (0xFF, 0x00) ∧
    aluAdd .postUpdate 0xF0 0x10 = (0x00, 0x90) ∧ aluAdd .preUpdate 0xF0 0x10 = (0x00, 0x90) ∧
    aluAdd .postUpdate 0x55 0xAA = (0xFF, 0x20) ∧ aluAdd .preUpdate 0x55 0xAA = (0xFF, 0x00) := by decide

/-- AC1 to AC13, the Carry flag as carry in. -/
theorem test_adc_vectors :
    aluAdc .postUpdate 0x10 0x20 0x10 = (0x31, 0x00) ∧ aluAdc .preUpdate 0x10 0x20 0x10 = (0x31, 0x00) ∧
    aluAdc .postUpdate 0x10 0x20 0xE0 = (0x30, 0x00) ∧ aluAdc .preUpdate 0x10 0x20 0xE0 = (0x30, 0x00) ∧
    aluAdc .postUpdate 0x00 0xFF 0x10 = (0x00, 0x90) ∧ aluAdc .preUpdate 0x00 0xFF 0x10 = (0x00, 0x90) ∧
    aluAdc .postUpdate 0x01 0xFF 0x10 = (0x01, 0x10) ∧ aluAdc .preUpdate 0x01 0xFF 0x10 = (0x01, 0x10) ∧
    aluAdc .postUpdate 0xFF 0xFF 0x10 = (0xFF, 0x10) ∧ aluAdc .preUpdate 0xFF 0xFF 0x10 = (0xFF, 0x10) ∧
    aluAdc .postUpdate 0x01 0x0F 0x10 = (0x11, 0x00) ∧ aluAdc .preUpdate 0x01 0x0F 0x10 = (0x11, 0x00) ∧
    aluAdc .postUpdate 0x0F 0x00 0x10 = (0x10, 0x00) ∧ aluAdc .preUpdate 0x0F 0x00 0x10 = (0x10, 0x20) ∧
    aluAdc .postUpdate 0xFF 0x00 0x10 = (0x00, 0x90) ∧ aluAdc .preUpdate 0xFF 0x00 0x10 = (0x00, 0xB0) ∧
    aluAdc .postUpdate 0x00 0x00 0x10 = (0x01, 0x00) ∧ aluAdc .preUpdate 0x00 0x00 0x10 = (0x01, 0x00) ∧
    aluAdc .postUpdate 0x00 0x00 0xE0 = (0x00, 0x80) ∧ aluAdc .preUpdate 0x00 0x00 0xE0 = (0x00, 0x80) ∧
    aluAdc .postUpdate 0x08 0x07 0x10 = (0x10, 0x00) ∧ aluAdc .preUpdate 0x08 0x07 0x10 = (0x10, 0x20) ∧
    aluAdc .postUpdate 0x99 0x00 0x10 = (0x9A, 0x00) ∧ aluAdc .preUpdate 0x99 0x00 0x10 = (0x9A, 0x00) ∧
    aluAdc .postUpdate 0x7F 0x80 0x10 = (0x00, 0x90) ∧ aluAdc .preUpdate 0x7F 0x80 0x10 = (0x00, 0xB0) := by decide

/-- AN1 to AN8. -/
theorem test_and_vectors :
    aluAnd 0x0E 0x06 = (0x06, 0x20) ∧
    aluAnd 0x00 0x00 = (0x00, 0xA0) ∧
    aluAnd 0xFF 0xFF = (0xFF, 0x20) ∧
    aluAnd 0xF0 0x0F = (0x00, 0xA0) ∧
    aluAnd 0xA5 0xA5 = (0xA5, 0x20) ∧
    aluAnd 0x00 0xFF = (0x00, 0xA0) ∧
    aluAnd 0x80 0x80 = (0x80, 0x20) ∧
    aluAnd 0x5A 0x3C = (0x18, 0x20) := by decide

/-- CP1 to CP13: reference compare in both `HC_MODE` values, corrected compare. -/
theorem test_compare_vectors :
    compareReference .postUpdate 0x42 0x42 = 0xC0 ∧ compareReference .preUpdate 0x42 0x42 = 0xC0 ∧
      compareCorrected 0x42 0x42 = 0xC0 ∧
    compareReference .postUpdate 0x00 0x00 = 0xC0 ∧ compareReference .preUpdate 0x00 0x00 = 0xC0 ∧
      compareCorrected 0x00 0x00 = 0xC0 ∧
    compareReference .postUpdate 0x05 0x07 = 0x20 ∧ compareReference .preUpdate 0x05 0x07 = 0x00 ∧
      compareCorrected 0x05 0x07 = 0x70 ∧
    compareReference .postUpdate 0x07 0x05 = 0x10 ∧ compareReference .preUpdate 0x07 0x05 = 0x30 ∧
      compareCorrected 0x07 0x05 = 0x40 ∧
    compareReference .postUpdate 0x10 0x01 = 0x30 ∧ compareReference .preUpdate 0x10 0x01 = 0x10 ∧
      compareCorrected 0x10 0x01 = 0x60 ∧
    compareReference .postUpdate 0x01 0x10 = 0x00 ∧ compareReference .preUpdate 0x01 0x10 = 0x00 ∧
      compareCorrected 0x01 0x10 = 0x50 ∧
    compareReference .postUpdate 0x00 0x01 = 0x20 ∧ compareReference .preUpdate 0x00 0x01 = 0x00 ∧
      compareCorrected 0x00 0x01 = 0x70 ∧
    compareReference .postUpdate 0xFF 0x00 = 0x00 ∧ compareReference .preUpdate 0xFF 0x00 = 0x00 ∧
      compareCorrected 0xFF 0x00 = 0x40 ∧
    compareReference .postUpdate 0x00 0xFF = 0x00 ∧ compareReference .preUpdate 0x00 0xFF = 0x00 ∧
      compareCorrected 0x00 0xFF = 0x70 ∧
    compareReference .postUpdate 0x80 0x7F = 0x10 ∧ compareReference .preUpdate 0x80 0x7F = 0x10 ∧
      compareCorrected 0x80 0x7F = 0x60 ∧
    compareReference .postUpdate 0x3C 0x2F = 0x10 ∧ compareReference .preUpdate 0x3C 0x2F = 0x10 ∧
      compareCorrected 0x3C 0x2F = 0x60 ∧
    compareReference .postUpdate 0xFF 0xFE = 0x10 ∧ compareReference .preUpdate 0xFF 0xFE = 0x30 ∧
      compareCorrected 0xFF 0xFE = 0x40 ∧
    compareReference .postUpdate 0x01 0x00 = 0x00 ∧ compareReference .preUpdate 0x01 0x00 = 0x00 ∧
      compareCorrected 0x01 0x00 = 0x40 := by decide

/-- DA1 to DA20. -/
theorem test_daa_vectors :
    aluDaa 0x00 0x00 = (0x00, 0x80) ∧
    aluDaa 0x3C 0x00 = (0x42, 0x00) ∧
    aluDaa 0x7D 0x00 = (0x83, 0x00) ∧
    aluDaa 0x9A 0x00 = (0x00, 0x90) ∧
    aluDaa 0x00 0x90 = (0x60, 0x10) ∧
    aluDaa 0xA0 0x00 = (0x00, 0x90) ∧
    aluDaa 0x99 0x00 = (0x99, 0x00) ∧
    aluDaa 0x42 0x00 = (0x42, 0x00) ∧
    aluDaa 0x12 0x20 = (0x18, 0x00) ∧
    aluDaa 0x12 0x10 = (0x72, 0x10) ∧
    aluDaa 0x12 0x30 = (0x78, 0x10) ∧
    aluDaa 0xFF 0x00 = (0x65, 0x10) ∧
    aluDaa 0x0A 0x00 = (0x10, 0x00) ∧
    aluDaa 0x00 0x70 = (0x9A, 0x50) ∧
    aluDaa 0x0F 0x40 = (0x0F, 0x40) ∧
    aluDaa 0x45 0x60 = (0x3F, 0x40) ∧
    aluDaa 0x45 0x50 = (0xE5, 0x50) ∧
    aluDaa 0x66 0x70 = (0x00, 0xD0) ∧
    aluDaa 0x99 0xC0 = (0x99, 0x40) ∧
    aluDaa 0x00 0x80 = (0x00, 0x80) := by decide

/-- IN1 to IN8. -/
theorem test_increment_vectors :
    aluIncrement 0x00 0x00 = (0x01, 0x00) ∧
    aluIncrement 0x0F 0x00 = (0x10, 0x20) ∧
    aluIncrement 0xFF 0x00 = (0x00, 0xA0) ∧
    aluIncrement 0xFF 0x10 = (0x00, 0xB0) ∧
    aluIncrement 0x7F 0xF0 = (0x80, 0x30) ∧
    aluIncrement 0x10 0xC0 = (0x11, 0x00) ∧
    aluIncrement 0xEF 0x10 = (0xF0, 0x30) ∧
    aluIncrement 0xFE 0x80 = (0xFF, 0x00) := by decide

/-- CX1 to CX8. -/
theorem test_complement_and_flip_vectors :
    aluComplement 0x35 0x80 = (0xCA, 0xE0) ∧
    aluComplement 0xFF 0x10 = (0x00, 0x70) ∧
    aluComplement 0x00 0x00 = (0xFF, 0x60) ∧
    aluComplement 0xAA 0xF0 = (0x55, 0xF0) ∧
    flipCarry 0x00 = 0x10 ∧
    flipCarry 0x10 = 0x00 ∧
    flipCarry 0x70 = 0x60 ∧
    flipCarry 0xE0 = 0xF0 := by decide

/-! ## One step from bytes: 95_test_vectors.md sections 2.9 to 2.12 -/

/-- V1: `ADD A,(HL)`, both configurations.
V2: `ADD A,A`, both configurations.
V3: `ADD A,L`, both configurations. -/
theorem test_step_add :
    runs [0x86]
      (withByte 0xC010 0x01 { ref with a := 0x0F, h := 0xC0, l := 0x10 })
      (withByte 0xC010 0x01 { ref with a := 0x10, h := 0xC0, l := 0x10, f := 0x00, pc := 0x0001 }) = true ∧
    runs [0x86]
      (withByte 0xC010 0x01 { cor with a := 0x0F, h := 0xC0, l := 0x10 })
      (withByte 0xC010 0x01 { cor with a := 0x10, h := 0xC0, l := 0x10, f := 0x20, pc := 0x0001 }) = true ∧
    runs [0x87]
      { ref with a := 0x88 }
      { ref with a := 0x10, f := 0x10, pc := 0x0001 } = true ∧
    runs [0x87]
      { cor with a := 0x88 }
      { cor with a := 0x10, f := 0x30, pc := 0x0001 } = true ∧
    runs [0x85]
      { ref with a := 0x01, l := 0xFF }
      { ref with a := 0x00, l := 0xFF, f := 0x90, pc := 0x0001 } = true ∧
    runs [0x85]
      { cor with a := 0x01, l := 0xFF }
      { cor with a := 0x00, l := 0xFF, f := 0xB0, pc := 0x0001 } = true := by decide

/-- V4: `ADC A,(HL)`, both configurations.
V5: `ADC A,A`, both configurations.
V6: `ADC A,B`, both configurations. -/
theorem test_step_adc :
    runs [0x8E]
      (withByte 0x0030 0x20 { ref with a := 0x10, f := 0x10, l := 0x30 })
      (withByte 0x0030 0x20 { ref with a := 0x31, l := 0x30, f := 0x00, pc := 0x0001 }) = true ∧
    runs [0x8E]
      (withByte 0x0030 0x20 { cor with a := 0x10, f := 0x10, l := 0x30 })
      (withByte 0x0030 0x20 { cor with a := 0x31, l := 0x30, f := 0x00, pc := 0x0001 }) = true ∧
    runs [0x8F]
      { ref with a := 0x80, f := 0x10 }
      { ref with a := 0x01, f := 0x10, pc := 0x0001 } = true ∧
    runs [0x8F]
      { cor with a := 0x80, f := 0x10 }
      { cor with a := 0x01, f := 0x10, pc := 0x0001 } = true ∧
    runs [0x88]
      { ref with a := 0x00, b := 0xFF, f := 0x10 }
      { ref with a := 0x00, b := 0xFF, f := 0x90, pc := 0x0001 } = true ∧
    runs [0x88]
      { cor with a := 0x00, b := 0xFF, f := 0x10 }
      { cor with a := 0x00, b := 0xFF, f := 0x90, pc := 0x0001 } = true := by decide

/-- V7: `AND A,(HL)`, both configurations.
V8: `AND A,A`, both configurations.
V9: `AND A,B`, both configurations. -/
theorem test_step_and :
    runs [0xA6]
      (withByte 0x0030 0x06 { ref with a := 0x0E, l := 0x30 })
      (withByte 0x0030 0x06 { ref with a := 0x06, l := 0x30, f := 0x20, pc := 0x0001 }) = true ∧
    runs [0xA6]
      (withByte 0x0030 0x06 { cor with a := 0x0E, l := 0x30 })
      (withByte 0x0030 0x06 { cor with a := 0x06, l := 0x30, f := 0x20, pc := 0x0001 }) = true ∧
    runs [0xA7]
      { ref with a := 0x00, f := 0x50 }
      { ref with a := 0x00, f := 0xA0, pc := 0x0001 } = true ∧
    runs [0xA7]
      { cor with a := 0x00, f := 0x50 }
      { cor with a := 0x00, f := 0xA0, pc := 0x0001 } = true ∧
    runs [0xA0]
      { ref with a := 0xF0, b := 0x3C, f := 0x10 }
      { ref with a := 0x30, b := 0x3C, f := 0x20, pc := 0x0001 } = true ∧
    runs [0xA0]
      { cor with a := 0xF0, b := 0x3C, f := 0x10 }
      { cor with a := 0x30, b := 0x3C, f := 0x20, pc := 0x0001 } = true := by decide

/-- V10: `CP A,(HL)`, both configurations.
V11: `CP A,A`, both configurations.
V12: `CP A,B`, both configurations.
V13: `CP A,C`, both configurations. -/
theorem test_step_cp :
    runs [0xBE]
      (withByte 0x1234 0x07 { ref with a := 0x05, h := 0x12, l := 0x34 })
      (withByte 0x1234 0x07 { ref with a := 0x05, h := 0x12, l := 0x34, f := 0x20, pc := 0x0001 }) = true ∧
    runs [0xBE]
      (withByte 0x1234 0x07 { cor with a := 0x05, h := 0x12, l := 0x34 })
      (withByte 0x1234 0x07 { cor with a := 0x05, h := 0x12, l := 0x34, f := 0x70, pc := 0x0001 }) = true ∧
    runs [0xBF]
      { ref with a := 0x77 }
      { ref with a := 0x77, f := 0xC0, pc := 0x0001 } = true ∧
    runs [0xBF]
      { cor with a := 0x77 }
      { cor with a := 0x77, f := 0xC0, pc := 0x0001 } = true ∧
    runs [0xB8]
      { ref with a := 0x07, b := 0x05 }
      { ref with a := 0x07, b := 0x05, f := 0x10, pc := 0x0001 } = true ∧
    runs [0xB8]
      { cor with a := 0x07, b := 0x05 }
      { cor with a := 0x07, b := 0x05, f := 0x40, pc := 0x0001 } = true ∧
    runs [0xB9]
      { ref with a := 0x05, c := 0x07 }
      { ref with a := 0x05, c := 0x07, f := 0x20, pc := 0x0001 } = true ∧
    runs [0xB9]
      { cor with a := 0x05, c := 0x07 }
      { cor with a := 0x05, c := 0x07, f := 0x70, pc := 0x0001 } = true := by decide

/-- V14: `INC B`, both configurations.
V15: `INC L`, both configurations.
V16: `INC A`, both configurations. -/
theorem test_step_inc :
    runs [0x04]
      { ref with b := 0xFF, f := 0x10 }
      { ref with b := 0x00, f := 0xB0, pc := 0x0001 } = true ∧
    runs [0x04]
      { cor with b := 0xFF, f := 0x10 }
      { cor with b := 0x00, f := 0xB0, pc := 0x0001 } = true ∧
    runs [0x2C]
      { ref with h := 0x12, l := 0xFF }
      { ref with h := 0x12, l := 0x00, f := 0xA0, pc := 0x0001 } = true ∧
    runs [0x2C]
      { cor with h := 0x12, l := 0xFF }
      { cor with h := 0x12, l := 0x00, f := 0xA0, pc := 0x0001 } = true ∧
    runs [0x3C]
      { ref with a := 0x0F, f := 0xC0 }
      { ref with a := 0x10, f := 0x20, pc := 0x0001 } = true ∧
    runs [0x3C]
      { cor with a := 0x0F, f := 0xC0 }
      { cor with a := 0x10, f := 0x20, pc := 0x0001 } = true := by decide

/-- V17: `DAA`, both configurations.
V18: `DAA`, both configurations.
V19: `CPL`, both configurations.
V20: `CCF`, both configurations. -/
theorem test_step_accumulator_and_flags :
    runs [0x27]
      { ref with a := 0x7D, f := 0x00 }
      { ref with a := 0x83, f := 0x00, pc := 0x0001 } = true ∧
    runs [0x27]
      { cor with a := 0x7D, f := 0x00 }
      { cor with a := 0x83, f := 0x00, pc := 0x0001 } = true ∧
    runs [0x27]
      { ref with a := 0x9A, f := 0x00 }
      { ref with a := 0x00, f := 0x90, pc := 0x0001 } = true ∧
    runs [0x27]
      { cor with a := 0x9A, f := 0x00 }
      { cor with a := 0x00, f := 0x90, pc := 0x0001 } = true ∧
    runs [0x2F]
      { ref with a := 0x35, f := 0x80 }
      { ref with a := 0xCA, f := 0xE0, pc := 0x0001 } = true ∧
    runs [0x2F]
      { cor with a := 0x35, f := 0x80 }
      { cor with a := 0xCA, f := 0xE0, pc := 0x0001 } = true ∧
    runs [0x3F]
      { ref with a := 0x35, f := 0x70 }
      { ref with a := 0x35, f := 0x60, pc := 0x0001 } = true ∧
    runs [0x3F]
      { cor with a := 0x35, f := 0x70 }
      { cor with a := 0x35, f := 0x60, pc := 0x0001 } = true := by decide

/-- T1: `JP 0x1234`. 
T2: `JP 0x4321`. Operand bytes at 0xFFFF and 0x0000.
T3: `JP NZ,0x8000`. Taken.
T4: `JP NZ,0x8000`. Not taken: p + 3.
T5: `JP Z,0x8000`. Taken.
T6: `JP Z,0x8000`. Not taken; N, H, C ignored.
T7: `JP NC,0x8000`. Taken; Z, N, H ignored.
T8: `JP NC,0x8000`. Not taken.
T9: `JP C,0x8000`. Taken.
T10: `JP C,0x8000`. Not taken.
T11: `JP NZ,0x8000`. Not taken at 0xFFFD: pc wraps to 0x0000.
T12: `JP (HL)`. No memory access. -/
theorem test_step_jp :
    runs [0xC3, 0x34, 0x12] { ref with pc := 0x0100, sp := 0x0000 }
      { ref with pc := 0x1234, sp := 0x0000 } = true ∧
    runs [0xC3, 0x21, 0x43] { ref with pc := 0xFFFE, sp := 0x0000 }
      { ref with pc := 0x4321, sp := 0x0000 } = true ∧
    runs [0xC2, 0x00, 0x80] { ref with pc := 0x0200, sp := 0x0000, f := 0x00 }
      { ref with f := 0x00, pc := 0x8000, sp := 0x0000 } = true ∧
    runs [0xC2, 0x00, 0x80] { ref with pc := 0x0200, sp := 0x0000, f := 0x80 }
      { ref with f := 0x80, pc := 0x0203, sp := 0x0000 } = true ∧
    runs [0xCA, 0x00, 0x80] { ref with pc := 0x0200, sp := 0x0000, f := 0x80 }
      { ref with f := 0x80, pc := 0x8000, sp := 0x0000 } = true ∧
    runs [0xCA, 0x00, 0x80] { ref with pc := 0x0200, sp := 0x0000, f := 0x70 }
      { ref with f := 0x70, pc := 0x0203, sp := 0x0000 } = true ∧
    runs [0xD2, 0x00, 0x80] { ref with pc := 0x0200, sp := 0x0000, f := 0xE0 }
      { ref with f := 0xE0, pc := 0x8000, sp := 0x0000 } = true ∧
    runs [0xD2, 0x00, 0x80] { ref with pc := 0x0200, sp := 0x0000, f := 0x10 }
      { ref with f := 0x10, pc := 0x0203, sp := 0x0000 } = true ∧
    runs [0xDA, 0x00, 0x80] { ref with pc := 0x0200, sp := 0x0000, f := 0x10 }
      { ref with f := 0x10, pc := 0x8000, sp := 0x0000 } = true ∧
    runs [0xDA, 0x00, 0x80] { ref with pc := 0x0200, sp := 0x0000, f := 0xE0 }
      { ref with f := 0xE0, pc := 0x0203, sp := 0x0000 } = true ∧
    runs [0xC2, 0x00, 0x80] { ref with pc := 0xFFFD, sp := 0x0000, f := 0x80 }
      { ref with f := 0x80, pc := 0x0000, sp := 0x0000 } = true ∧
    runs [0xE9] { ref with pc := 0x0300, sp := 0x0000, h := 0xAB, l := 0xCD }
      { ref with h := 0xAB, l := 0xCD, pc := 0xABCD, sp := 0x0000 } = true := by decide

/-- T13: `CALL 0x2000`. Return address 0x0153.
T14: `CALL 0x2000`. Sp wraps: writes 0xFFFF then 0xFFFE.
T15: `CALL 0x2000`. Sp wraps between the two bytes.
T16: `CALL 0x2000`. Opcode at 0xFFFF: return address 0x0002.
T17: `CALL NZ,0x5678`. Taken.
T18: `CALL NZ,0x5678`. Not taken: no write, sp kept.
T19: `CALL Z,0x5678`. Taken.
T20: `CALL Z,0x5678`. Not taken.
T21: `CALL NC,0x5678`. Taken.
T22: `CALL NC,0x5678`. Not taken.
T23: `CALL C,0x5678`. Taken.
T24: `CALL C,0x5678`. Not taken. -/
theorem test_step_call :
    runs [0xCD, 0x00, 0x20] { ref with pc := 0x0150, sp := 0xFFFE }
      (withByte 0xFFFC 0x53 (withByte 0xFFFD 0x01 { ref with pc := 0x2000, sp := 0xFFFC })) = true ∧
    runs [0xCD, 0x00, 0x20] { ref with pc := 0x0150, sp := 0x0000 }
      (withByte 0xFFFE 0x53 (withByte 0xFFFF 0x01 { ref with pc := 0x2000, sp := 0xFFFE })) = true ∧
    runs [0xCD, 0x00, 0x20] { ref with pc := 0x0150, sp := 0x0001 }
      (withByte 0xFFFF 0x53 (withByte 0x0000 0x01 { ref with pc := 0x2000, sp := 0xFFFF })) = true ∧
    runs [0xCD, 0x00, 0x20] { ref with pc := 0xFFFF, sp := 0x8000 }
      (withByte 0x7FFE 0x02 (withByte 0x7FFF 0x00 { ref with pc := 0x2000, sp := 0x7FFE })) = true ∧
    runs [0xC4, 0x78, 0x56] { ref with pc := 0x0300, sp := 0xD000, f := 0x00 }
      (withByte 0xCFFE 0x03 (withByte 0xCFFF 0x03 { ref with f := 0x00, pc := 0x5678, sp := 0xCFFE })) = true ∧
    runs [0xC4, 0x78, 0x56] { ref with pc := 0x0300, sp := 0xD000, f := 0x80 }
      { ref with f := 0x80, pc := 0x0303, sp := 0xD000 } = true ∧
    runs [0xCC, 0x78, 0x56] { ref with pc := 0x0300, sp := 0xD000, f := 0x80 }
      (withByte 0xCFFE 0x03 (withByte 0xCFFF 0x03 { ref with f := 0x80, pc := 0x5678, sp := 0xCFFE })) = true ∧
    runs [0xCC, 0x78, 0x56] { ref with pc := 0x0300, sp := 0xD000, f := 0x00 }
      { ref with f := 0x00, pc := 0x0303, sp := 0xD000 } = true ∧
    runs [0xD4, 0x78, 0x56] { ref with pc := 0x0300, sp := 0xD000, f := 0x00 }
      (withByte 0xCFFE 0x03 (withByte 0xCFFF 0x03 { ref with f := 0x00, pc := 0x5678, sp := 0xCFFE })) = true ∧
    runs [0xD4, 0x78, 0x56] { ref with pc := 0x0300, sp := 0xD000, f := 0x10 }
      { ref with f := 0x10, pc := 0x0303, sp := 0xD000 } = true ∧
    runs [0xDC, 0x78, 0x56] { ref with pc := 0x0300, sp := 0xD000, f := 0x10 }
      (withByte 0xCFFE 0x03 (withByte 0xCFFF 0x03 { ref with f := 0x10, pc := 0x5678, sp := 0xCFFE })) = true ∧
    runs [0xDC, 0x78, 0x56] { ref with pc := 0x0300, sp := 0xD000, f := 0x00 }
      { ref with f := 0x00, pc := 0x0303, sp := 0xD000 } = true := by decide

/-- M1: `LD B,0xA0`.
M2: `LD C,0xA1`.
M3: `LD D,0xA2`.
M4: `LD E,0xA3`.
M5: `LD H,0xA4`.
M6: `LD L,0xA5`.
M7: `LD A,0x00`. -/
theorem test_step_load_immediate :
    runs [0x06, 0xA0] { ref with f := 0xF0 }
      { ref with f := 0xF0, b := 0xA0, pc := 0x0002 } = true ∧
    runs [0x0E, 0xA1] ref
      { ref with c := 0xA1, pc := 0x0002 } = true ∧
    runs [0x16, 0xA2] ref
      { ref with d := 0xA2, pc := 0x0002 } = true ∧
    runs [0x1E, 0xA3] ref
      { ref with e := 0xA3, pc := 0x0002 } = true ∧
    runs [0x26, 0xA4] ref
      { ref with h := 0xA4, pc := 0x0002 } = true ∧
    runs [0x2E, 0xA5] ref
      { ref with l := 0xA5, pc := 0x0002 } = true ∧
    runs [0x3E, 0x00] { ref with a := 0x55, f := 0x00 }
      { ref with a := 0x00, f := 0x00, pc := 0x0002 } = true := by decide

/-- M8: `LD (BC),A`.
M9: `LD (DE),A`.
M10: `LD (HL),A`.
M11: `LD A,(BC)`.
M12: `LD A,(DE)`.
M13: `LD A,(HL)`.
M14: `LD (0xC000),SP`.
M15: `LD (0xFFFF),SP`. -/
theorem test_step_memory :
    runs [0x02] { ref with a := 0x5A, b := 0xC1, c := 0x23 }
      (withByte 0xC123 0x5A { ref with a := 0x5A, b := 0xC1, c := 0x23, pc := 0x0001 }) = true ∧
    runs [0x12] { ref with a := 0xA5, d := 0xFF, e := 0xFF }
      (withByte 0xFFFF 0xA5 { ref with a := 0xA5, d := 0xFF, e := 0xFF, pc := 0x0001 }) = true ∧
    runs [0x77] { ref with a := 0x77 }
      (withByte 0x0000 0x77 { ref with a := 0x77, pc := 0x0001 }) = true ∧
    runs [0x0A] (withByte 0xC123 0x99 { ref with a := 0x01, b := 0xC1, c := 0x23 })
      (withByte 0xC123 0x99 { ref with a := 0x99, b := 0xC1, c := 0x23, pc := 0x0001 }) = true ∧
    runs [0x1A] (withByte 0xFFFF 0x42 { ref with d := 0xFF, e := 0xFF })
      (withByte 0xFFFF 0x42 { ref with d := 0xFF, e := 0xFF, a := 0x42, pc := 0x0001 }) = true ∧
    runs [0x7E] (withByte 0x8000 0x00 { ref with a := 0x33, h := 0x80, f := 0x10 })
      (withByte 0x8000 0x00 { ref with a := 0x00, h := 0x80, f := 0x10, pc := 0x0001 }) = true ∧
    runs [0x08, 0x00, 0xC0] { ref with sp := 0xFFFE }
      (withByte 0xC001 0xFF (withByte 0xC000 0xFE { ref with sp := 0xFFFE, pc := 0x0003 })) = true ∧
    runs [0x08, 0xFF, 0xFF] { ref with sp := 0x1234 }
      (withByte 0x0000 0x12 (withByte 0xFFFF 0x34 { ref with sp := 0x1234, pc := 0x0003 })) = true := by decide

/-- DS1: `HALT`.
DS2: `HALT` at the top of program space.
DS3: unimplemented (Game Boy `NOP`).
DS4: extended prefix; second byte not fetched.
DS5: unimplemented.
DS6: unimplemented (Game Boy `INC (HL)`).
DS7: unimplemented (Game Boy `LD (HL),d8`); operand not fetched.
DS8: unimplemented (Game Boy `ADD A,d8`).
DS9: unimplemented (Game Boy `RET`).
DS10: unimplemented (Game Boy `SUB B`).
DS11: unimplemented (Game Boy `LD B,B`).
DS12: unimplemented (Game Boy `SCF`).
DS13: unimplemented (undefined on a Game Boy too). -/
theorem test_step_halt_and_faults :
    runs [0x76] { ref with pc := 0x0000 }
      { ref with pc := 0x0001, run := .halted } = true ∧
    runs [0x76] { ref with pc := 0xFFFF }
      { ref with pc := 0x0000, run := .halted } = true ∧
    runs [0x00] { ref with pc := 0x0000 }
      { ref with pc := 0x0001, run := .faulted .unimplementedOpcode } = true ∧
    runs [0xCB, 0x37] { ref with pc := 0x0000 }
      { ref with pc := 0x0001, run := .faulted .unimplementedPrefix } = true ∧
    runs [0xFF] { ref with pc := 0x0000 }
      { ref with pc := 0x0001, run := .faulted .unimplementedOpcode } = true ∧
    runs [0x34] { ref with pc := 0x0000 }
      { ref with pc := 0x0001, run := .faulted .unimplementedOpcode } = true ∧
    runs [0x36, 0x12] { ref with pc := 0x0000 }
      { ref with pc := 0x0001, run := .faulted .unimplementedOpcode } = true ∧
    runs [0xC6, 0x01] { ref with pc := 0x0000 }
      { ref with pc := 0x0001, run := .faulted .unimplementedOpcode } = true ∧
    runs [0xC9] { ref with pc := 0x0000 }
      { ref with pc := 0x0001, run := .faulted .unimplementedOpcode } = true ∧
    runs [0x90] { ref with pc := 0x0000 }
      { ref with pc := 0x0001, run := .faulted .unimplementedOpcode } = true ∧
    runs [0x40] { ref with pc := 0x0000 }
      { ref with pc := 0x0001, run := .faulted .unimplementedOpcode } = true ∧
    runs [0x37] { ref with pc := 0x0000 }
      { ref with pc := 0x0001, run := .faulted .unimplementedOpcode } = true ∧
    runs [0xD3] { ref with pc := 0x1234 }
      { ref with pc := 0x1235, run := .faulted .unimplementedOpcode } = true := by decide
/-! ## Operands: every ALU form reads its own register, every `INC` changes its own -/

/-- The accumulators after each form on `distinct` (a=1, b=2, ..., l=7, HL=0x0607 holding 0x40). -/
def accumulators (is : List Instr) : List (Option Byte) :=
  is.map fun i => (nextState (exec i (withByte 0x0607 0x40 distinct))).map (·.a)

theorem test_add_operands : accumulators (addForms.map Prod.fst) =
    [some 0x03, some 0x04, some 0x05, some 0x06, some 0x07, some 0x08, some 0x41, some 0x02] := by
  decide

theorem test_adc_operands : accumulators (adcForms.map Prod.fst) =
    [some 0x04, some 0x05, some 0x06, some 0x07, some 0x08, some 0x09, some 0x42, some 0x03] := by
  decide

theorem test_and_operands : accumulators (andForms.map Prod.fst) =
    [some 0x00, some 0x01, some 0x00, some 0x01, some 0x00, some 0x01, some 0x00, some 0x01] := by
  decide

/-- R124 to R131 on `distinct`, corrected configuration: Carry iff the operand exceeds the accumulator. -/
theorem test_cp_operands : (cpForms.map fun form =>
      (nextState (exec form.1 { withByte 0x0607 0x01 distinct with a := 0x04, cfg := Config.corrected })).map
        (·.f)) =
    [some 0x40, some 0x40, some 0xC0, some 0x70, some 0x70, some 0x70, some 0x40, some 0xC0] := by
  decide

theorem test_inc_registers : (incForms.map fun form => (nextState (exec form.1 distinct)).map fun t =>
      (t.b, t.c, t.d, t.e, t.h, t.l, t.a)) =
    [some (0x03, 0x03, 0x04, 0x05, 0x06, 0x07, 0x01), some (0x02, 0x04, 0x04, 0x05, 0x06, 0x07, 0x01),
     some (0x02, 0x03, 0x05, 0x05, 0x06, 0x07, 0x01), some (0x02, 0x03, 0x04, 0x06, 0x06, 0x07, 0x01),
     some (0x02, 0x03, 0x04, 0x05, 0x07, 0x07, 0x01), some (0x02, 0x03, 0x04, 0x05, 0x06, 0x08, 0x01),
     some (0x02, 0x03, 0x04, 0x05, 0x06, 0x07, 0x02)] := by
  decide

/-! ## Reset, launch, memory, the host's two questions -/

/-- 95_test_vectors.md section 2.12: a launch value 0xFF of `f` is held as 0xF0, 0x0F as 0x00; a pair
decomposes (10_state.md R13). -/
theorem test_launch_values :
    (applyLaunchWrite ref (.reg .f 0xFF)).f = 0xF0 ∧ (applyLaunchWrite ref (.reg .f 0x0F)).f = 0x00 ∧
    (applyLaunchWrite ref (.pair .bc 0x1234)).b = 0x12 ∧ (applyLaunchWrite ref (.pair .bc 0x1234)).c = 0x34 := by
  decide

/-- The status outputs (70_reset_and_hazards.md R240, R244). -/
theorem test_status_outputs :
    State.isHalted { ref with run := .halted } = true ∧ State.cause { ref with run := .halted } = 0 ∧
    State.isFaulted { ref with run := .faulted .unimplementedPrefix } = true ∧
    State.cause { ref with run := .faulted .unimplementedPrefix } = 2 ∧
    State.cause { ref with run := .faulted .unimplementedOpcode } = 1 ∧ State.isFaulted ref = false := by
  decide

/-- Writing what an unlisted address reads as removes the cell; cells stay sorted. -/
theorem test_memory_canonical :
    Memory.write (Memory.write (Memory.write [] 0x0002 0x22) 0x0001 0x11) 0x0002 0x00 = [(1, 0x11)] ∧
    Memory.write (Memory.write [] 0xFFFF 0xFF) 0x0000 0x01 = [(0, 0x01), (65535, 0xFF)] := by decide

/-- The host's question: a placed word is what the next step fetches and runs, first after reset. -/
theorem test_with_fetch_word :
    (nextState (step (State.reset.withFetchWord 24 0x1234C3))).map (·.pc) = some 0x1234 ∧
    (nextState (step (State.reset.withFetchWord 8 0x3C))).map (·.a) = some 0x01 := by decide

/-- From reset with nothing placed, the first step fetches 0x00 and faults (log 7). -/
theorem test_step_from_reset_faults :
    nextState (step State.reset) =
      some { State.reset with pc := 0x0001, run := .faulted .unimplementedOpcode } := by decide

/-! ## Witnesses: a state and operands that meet the hypotheses of each obligation that has some -/

/-- The three bytes a step looks at. -/
def window (s : State) : List Byte := [s.ps.read s.pc, s.ps.read (s.pc + 1), s.ps.read (s.pc + 2)]

/-- A state that meets the invariant, with memory in use. -/
def inUse : State := withByte 0xC000 0x5A (place [0xCD, 0x00, 0x20] { ref with sp := 0xFFFE, f := 0xF0 })

theorem witness_FlagBitsOfF : (0xF0 : Byte) &&& 0x0F = 0 ∧ (0x00 : Byte) &&& 0x0F = 0 := by decide

/-- Both ends of the range of the second operand, in both modes. -/
theorem witness_AddResultAndFlags :
    (0 : Nat) ≤ 256 ∧ (256 : Nat) ≤ 256 ∧ aluAdd .postUpdate 0xFF 256 = (0xFF, 0x10) ∧
    aluAdd .preUpdate 0xFF 0 = (0xFF, 0x00) := by decide

theorem witness_AndResultAndFlags : (0 : Nat) < 8 ∧ (7 : Nat) < 8 := by decide

/-- Both branches, on both sides of the additive tests' boundaries (0x99 and low nibble 9). -/
theorem witness_DaaResultAndFlags :
    flagN 0x00 = false ∧ flagN 0x40 = true ∧ aluDaa 0x99 0x00 = (0x99, 0x00) ∧
    aluDaa 0x9A 0x00 = (0x00, 0x90) ∧ aluDaa 0x00 0x70 = (0x9A, 0x50) := by decide

theorem witness_BcdAdditionIsCorrectPreUpdate :
    (99 : Nat) < 100 ∧ (0 : Nat) < 100 ∧
    (aluDaa (aluAdd .preUpdate (bcd 99) (bcd 99).toNat).1 (aluAdd .preUpdate (bcd 99) (bcd 99).toNat).2).1
      = 0x98 := by decide

/-- Both clauses at their boundary: 0x99 leaves Carry clear, 0x9A leaves it set with low nibble 0, and 0x09 with
Half-Carry and Carry leaves it set with low nibble 0xF. -/
theorem witness_DaaIdempotentWhenCarryClear :
    flagN 0x00 = false ∧ (aluDaa 0x99 0x00).1.toNat % 16 ≤ 9 ∧ (aluDaa 0x99 0x00).1.toNat / 16 ≤ 9 ∧
    flagC (aluDaa 0x99 0x00).2 = false ∧
    flagC (aluDaa 0x9A 0x00).2 = true ∧ (aluDaa 0x9A 0x00).1.toNat % 16 ≤ 9 ∧
    flagN 0x30 = false ∧ flagC (aluDaa 0x09 0x30).2 = true ∧ ¬ (aluDaa 0x09 0x30).1.toNat % 16 ≤ 9 := by decide

theorem witness_CompareReferenceFlags : (0x42 : Byte) = 0x42 ∧ (0x42 : Byte) ≠ 0x43 ∧ (0x42 : Byte) ≠ 0x00 := by
  decide

theorem witness_AddInstructions : (.addAB, fun s => s.b) ∈ addForms ∧ (.addAMemHL, atHL) ∈ addForms ∧
    (.addAA, fun s => s.a) ∈ addForms := by simp [addForms, sources]

theorem witness_AdcInstructions : (.adcAB, fun s => s.b) ∈ adcForms ∧ (.adcAMemHL, atHL) ∈ adcForms ∧
    (.adcAA, fun s => s.a) ∈ adcForms := by simp [adcForms, sources]

theorem witness_AndInstructions : (.andAB, fun s => s.b) ∈ andForms ∧ (.andAMemHL, atHL) ∈ andForms ∧
    (.andAA, fun s => s.a) ∈ andForms := by simp [andForms, sources]

/-- A form of the table with an equal and with a different operand, in the reference configuration. -/
theorem witness_CompareInstructionsReference :
    ∃ form ∈ cpForms, form.1 = .cpAB ∧ ref.cfg.cpMode = .reference ∧
      ref.a = form.2 ref ∧ { ref with a := 0x01 }.a ≠ form.2 { ref with a := 0x01 } :=
  ⟨(.cpAB, fun s => s.b), by simp [cpForms, sources], by decide⟩

theorem witness_CompareInstructionsCorrected :
    ∃ form ∈ cpForms, form.1 = .cpAMemHL ∧ cor.cfg.cpMode = .corrected :=
  ⟨(.cpAMemHL, atHL), by simp [cpForms, sources], by decide⟩

theorem witness_IncInstructions : .incB ∈ incForms.map Prod.fst ∧ .incA ∈ incForms.map Prod.fst := by
  decide

/-- Each conditional jump, with its condition true and false. -/
theorem witness_ConditionalJumps :
    ∀ form ∈ jumpForms, ∃ s t : State, form.2 s.f ∧ ¬ form.2 t.f := by
  simp only [jumpForms, conditions, List.zip, List.zipWith, List.mem_cons, List.not_mem_nil, or_false]
  rintro form (rfl | rfl | rfl | rfl)
  · exact ⟨ref, { ref with f := 0x80 }, by decide⟩
  · exact ⟨{ ref with f := 0x80 }, ref, by decide⟩
  · exact ⟨ref, { ref with f := 0x10 }, by decide⟩
  · exact ⟨{ ref with f := 0x10 }, ref, by decide⟩

/-- Each conditional call, with its condition true and false. -/
theorem witness_ConditionalCalls :
    ∀ form ∈ callForms, ∃ s t : State, form.2 s.f ∧ ¬ form.2 t.f := by
  simp only [callForms, conditions, List.zip, List.zipWith, List.mem_cons, List.not_mem_nil, or_false]
  rintro form (rfl | rfl | rfl | rfl)
  · exact ⟨ref, { ref with f := 0x80 }, by decide⟩
  · exact ⟨{ ref with f := 0x80 }, ref, by decide⟩
  · exact ⟨ref, { ref with f := 0x10 }, by decide⟩
  · exact ⟨{ ref with f := 0x10 }, ref, by decide⟩

theorem witness_LoadImmediateInstructions :
    ∃ form ∈ loadImmediateForms, form.1 0xFF = .ldB 0xFF ∧ form.2.1 distinct = 0x02 :=
  ⟨_, by rw [loadImmediateForms]; exact List.mem_cons_self, by decide⟩

theorem witness_StoreAccumulatorInstructions :
    ∃ form ∈ storeForms, form.1 = .ldMemBCA ∧ form.2 distinct = 0x0203 :=
  ⟨_, by rw [storeForms]; exact List.mem_cons_self, by decide⟩

theorem witness_LoadAccumulatorInstructions :
    ∃ form ∈ loadForms, form.1 = .ldAMemBC ∧ form.2 distinct = 0x0203 :=
  ⟨_, by rw [loadForms]; exact List.mem_cons_self, by decide⟩

theorem witness_DecodeOfEncode : Instr.wellFormed (.call 0xFFFF) = true ∧ Instr.wellFormed (.ldA 0x00) = true := by
  decide

theorem witness_EncodeOfDecode : decode [0xCD, 0xFF, 0xFF, 0x76] = .ok (.call 0xFFFF, [0x76]) := by
  decide

theorem unimplemented_intro (op : Byte) (lo hi : Nat) (h : (lo, hi) ∈ unimplementedRanges)
    (hl : lo ≤ op.toNat) (hh : op.toNat ≤ hi) : unimplemented op := ⟨(lo, hi), h, hl, hh⟩

/-- The ends of the first and the last range. -/
theorem witness_UnimplementedBytesAreRefused :
    unimplemented 0x00 ∧ unimplemented 0x01 ∧ unimplemented 0xEA ∧ unimplemented 0xFF :=
  ⟨unimplemented_intro _ 0x00 0x01 (by decide) (by decide) (by decide),
   unimplemented_intro _ 0x00 0x01 (by decide) (by decide) (by decide),
   unimplemented_intro _ 0xEA 0xFF (by decide) (by decide) (by decide),
   unimplemented_intro _ 0xEA 0xFF (by decide) (by decide) (by decide)⟩

/-- A running state whose bytes decode, the last of them at 0x0001 after the wrap. -/
theorem witness_StepRunsDecodedInstruction :
    (place [0xC3, 0x21, 0x43] { ref with pc := 0xFFFF }).run = .running ∧
    decode (window (place [0xC3, 0x21, 0x43] { ref with pc := 0xFFFF })) = .ok (.jp 0x4321, []) := by
  decide

theorem witness_FaultEntry :
    (place [0xFF] ref).run = .running ∧ unimplemented ((place [0xFF] ref).ps.read (place [0xFF] ref).pc) ∧
    (place [0xCB] ref).run = .running ∧ (place [0xCB] ref).ps.read (place [0xCB] ref).pc = 0xCB :=
  ⟨rfl, unimplemented_intro _ 0xEA 0xFF (by decide) (by decide) (by decide), rfl,
   by decide⟩

/-- A state for each premise: halted, each cause, not faulted. -/
theorem witness_EndedRunHasNoStep :
    { ref with run := .halted }.run = .halted ∧
    { ref with run := .faulted .unimplementedOpcode }.run = .faulted .unimplementedOpcode ∧
    { ref with run := .faulted .unimplementedPrefix }.run = .faulted .unimplementedPrefix ∧
    State.isFaulted ref = false ∧ State.isFaulted { ref with run := .halted } = false := by decide

theorem witness_RunningMachineAlwaysSteps : State.reset.run = .running := rfl

/-- A step for each of the four outcomes of the run state. -/
theorem witness_RunStateTransitions :
    (nextState (step inUse)).map (·.run) = some .running ∧
    (nextState (step (place [0x76] ref))).map (·.run) = some .halted ∧
    (nextState (step (place [0xFF] ref))).map (·.run) = some (.faulted .unimplementedOpcode) ∧
    (nextState (step (place [0xCB] ref))).map (·.run) = some (.faulted .unimplementedPrefix) := by
  decide

theorem witness_FaultsBelongToTheFetch :
    Instr.addAB ≠ .prefixCB ∧ decode (window (place [0xCB] ref)) = .ok (.prefixCB, [0x00, 0x00]) ∧
    (nextState (step (place [0xCB] ref))).map (·.run) = some (.faulted .unimplementedPrefix) := by
  decide

theorem witness_ProgramCounterMovement :
    decode (window inUse) = .ok (.call 0x2000, []) ∧ callTaken inUse.f (.call 0x2000) = true ∧
    callTaken inUse.f (.callC 0x2000) = true ∧ callTaken inUse.f (.callNC 0x2000) = false ∧
    (nextState (exec (.call 0x2000) inUse)).isSome = true := by decide

/-- `JP NZ` at 0xFFFD with Zero set: the landing wraps to 0x0000 (vector T11). -/
theorem witness_NotTakenLandsPastTheOperands :
    ∃ form ∈ jumpForms ++ callForms, form.1 0x8000 = .jpNZ 0x8000 ∧
      ¬ form.2 (place [0xC2, 0x00, 0x80] { ref with pc := 0xFFFD, f := 0x80 }).f ∧
      (place [0xC2, 0x00, 0x80] { ref with pc := 0xFFFD, f := 0x80 }).run = .running ∧
      decode (window (place [0xC2, 0x00, 0x80] { ref with pc := 0xFFFD, f := 0x80 })) =
        .ok (form.1 0x8000, []) :=
  ⟨_, by rw [jumpForms]; exact List.mem_cons_self, by decide⟩

/-- A taken call from a running state. -/
theorem witness_CallReturnAddressRoundTrip :
    inUse.run = .running ∧ decode (window inUse) = .ok (.call 0x2000, []) ∧
    callTaken inUse.f (.call 0x2000) = true ∧
    (nextState (step inUse)).map (fun t => (t.sp, t.ws.read 0xFFFC)) = some (0xFFFC, 0x03) := by decide

/-- For each clause an instruction that meets it, and its next state. -/
theorem witness_FlagsWrittenOnlyAsListed :
    writesFlags (.ldA 0x00) = false ∧ .addAB ∈ addForms.map Prod.fst ∧ .adcAB ∈ adcForms.map Prod.fst ∧
    .andAB ∈ andForms.map Prod.fst ∧ isInc .incA = true ∧ (nextState (exec .daa inUse)).isSome = true := by
  decide

/-- The three premises of its compare clause. -/
theorem witness_FlagsWrittenOnlyAsListed_compare :
    ∃ form ∈ cpForms, form.1 = .cpAB ∧ ref.cfg.cpMode = .reference ∧ ref.a = form.2 ref ∧
      distinct.cfg.cpMode = .reference ∧ distinct.a ≠ form.2 distinct ∧ cor.cfg.cpMode = .corrected :=
  ⟨(.cpAB, fun s => s.b), by simp [cpForms, sources], by decide⟩

/-- Flag bytes that agree on Carry only, on Zero only, on Subtract, Half-Carry and Carry. -/
theorem witness_FlagsReadOnlyAsListed :
    (∀ flag ∈ flagsRead .adcAB, flag 0x10 = flag { ref with f := 0xF0 }.f) ∧
    (∀ flag ∈ flagsRead (.jpZ 0x0000), flag 0x80 = flag { ref with f := 0xF0 }.f) ∧
    (∀ flag ∈ flagsRead .daa, flag 0x70 = flag { ref with f := 0xF0 }.f) ∧
    writesFlags .daa = true ∧ passesFlags .daa = false := by
  simp only [flagsRead, List.forall_mem_cons, List.not_mem_nil, false_implies, implies_true, and_true]
  decide

theorem witness_StackPointerChangedOnlyByTakenCalls :
    isCall .addAB = false ∧ (∀ a16, Instr.addAB ≠ .ldMemA16SP a16) ∧
    (nextState (exec (.call 0x2000) inUse)).map (·.sp) = some 0xFFFC ∧
    (nextState (exec (.callNC 0x2000) inUse)).map (·.sp) = some 0xFFFE :=
  ⟨rfl, fun _ => Instr.noConfusion, by decide⟩

theorem witness_RegistersChangedOnlyByTheirWriters :
    writtenReg .incB ≠ some .c ∧ writesFlags (.ldA 0x00) = false ∧
    (nextState (exec .incB inUse)).isSome = true := by decide

theorem witness_WorkingSpaceAccessedOnlyAsListed :
    isStore .addAMemHL = false ∧ callTaken inUse.f (.callNC 0x2000) = false ∧
    readsWorkingSpace .ldMemBCA = false ∧ (nextState (exec .addAMemHL inUse)).isSome = true := by decide

/-- Two program spaces that agree on the bytes of `HALT` at 0xFFFF and differ at the next address. -/
theorem witness_ProgramSpaceOnlyFetched :
    fetchedBytes (place [0x76] { ref with pc := 0xFFFF }) = 1 ∧
    (∀ k, k < 1 →
      Memory.read (Memory.write (place [0x76] { ref with pc := 0xFFFF }).ps 0x0000 0x80) (0xFFFF + BitVec.ofNat 16 k)
        = (place [0x76] { ref with pc := 0xFFFF }).ps.read (0xFFFF + BitVec.ofNat 16 k)) ∧
    Memory.write (place [0x76] { ref with pc := 0xFFFF }).ps 0x0000 0x80
      ≠ (place [0x76] { ref with pc := 0xFFFF }).ps ∧
    fetchedBytes inUse = 3 ∧ (nextState (step inUse)).isSome = true := by decide

theorem witness_ConfigurationIsFixed : (nextState (step { inUse with cfg := Config.corrected })).isSome = true := by
  decide

/-- A state that meets the invariant, uses memory, and has a next state. -/
theorem witness_StepKeepsInvariant : inUse.Inv ∧ (nextState (step inUse)).isSome = true :=
  ⟨⟨by decide, by decide, by decide⟩, by decide⟩

theorem witness_ReachableStatesMeetInvariant :
    Reachable (State.launch (fun _ => 0x76) (fun _ => 0xFF) [.pc 0xFFFF, .reg .f 0xFF] (State.resetEvent ref)) :=
  .launched _ _ _ _

/-- Launch values that leave a register, `pc` and `sp` alone, and later values that leave an earlier one alone. -/
theorem witness_LaunchSuppliesImages :
    (∀ w ∈ [LaunchWrite.pair .bc 0x1234, .reg .f 0xFF], setsReg w .a = false ∧ setsPc w = false ∧ setsSp w = false) ∧
    (∀ w ∈ [LaunchWrite.reg .c 0x01, .pair .hl 0x5678, .pc 0x0100], setsReg w .f = false ∧ setsReg w .b = false ∧
      setsSp w = false) ∧
    (∀ w ∈ [LaunchWrite.reg .h 0x01], ∀ r, setsReg (.pair .bc 0xFFFF) r = true → setsReg w r = false) :=
  ⟨by decide, by decide, by intro w hw r hr; cases List.mem_singleton.1 hw; cases r <;> first | rfl | cases hr⟩

theorem witness_CanonicalMemoriesEqualByReads :
    Memory.wf (Memory.write [] 0xFFFF 0x01) ∧
    (∀ a : Word, Memory.read (Memory.write [] 0xFFFF 0x01) a = Memory.read [(65535, 0x01)] a) :=
  ⟨by decide, fun _ => rfl⟩

end Sys2Proof.Tests
end

section
/-! SUPPORT. The instruction families: every instruction is one of nineteen operations, so that a claim
about all instructions is proved by a case split over the operations, and what the flag engine does to the
single flags. -/

namespace Sys2Proof

open Sys2Proof.Machine Sys2Proof.Claims

/-! ## The operations, and the operation of each instruction -/

/-- The families of instructions over their operands. No family names `f` as an operand or a destination
(spec/30_encoding.md R66). -/
inductive Operation where
  | add (o : Operand8) (ho : o ≠ .reg .f)
  | adc (o : Operand8) (ho : o ≠ .reg .f)
  | and (o : Operand8) (ho : o ≠ .reg .f)
  | compare (o : Operand8) (ho : o ≠ .reg .f)
  | inc (r : Reg) (hr : r ≠ .f)
  | daa
  | complement
  | flipCarry
  | loadImmediate (r : Reg) (hr : r ≠ .f) (v : Byte)
  | store (p : Pair)
  | load (p : Pair)
  | storeSp (target : Word)
  | jump (target : Word)
  | jumpIf (cc : Cond) (target : Word)
  | jumpHL
  | call (target : Word)
  | callIf (cc : Cond) (target : Word)
  | halt
  | prefixFault

/-- The flag a condition tests (spec/43_control_transfer.md R180). -/
def Cond.flag : Cond → Byte → Bool
  | .nz | .z => flagZ
  | .nc | .c => flagC

namespace Operation

/-- The effect of an operation. -/
def run : Operation → State → State
  | add o _, s => addToA o s
  | adc o _, s => adcToA o s
  | and o _, s => andToA o s
  | compare o _, s => compareWithA o s
  | inc r _, s => incrementReg r s
  | daa, s => writeResult .a (aluDaa (readReg s .a) (readReg s .f)) s
  | complement, s => writeResult .a (aluComplement (readReg s .a) (readReg s .f)) s
  | flipCarry, s => writeReg .f (Machine.flipCarry (readReg s .f)) s
  | loadImmediate r _ v, s => writeReg r v s
  | store p, s => storeA p s
  | load p, s => loadA p s
  | storeSp target, s => memWrite16 target s.sp s
  | jump target, s => setPc target s
  | jumpIf cc target, s => Machine.jumpIf cc target s
  | jumpHL, s => setPc (readPair s .hl) s
  | call target, s => callTo target s
  | callIf cc target, s => Machine.callIf cc target s
  | halt, s => haltRun s
  | prefixFault, s => takeFault .unimplementedPrefix s

/-- The operations that write flags (spec/10_state.md R17). -/
def writesFlags : Operation → Bool
  | add _ _ | adc _ _ | and _ _ | compare _ _ | inc _ _ | daa | complement | flipCarry => true
  | _ => false

/-- The operations that write some flags and pass others through (R17). -/
def passesFlags : Operation → Bool
  | inc _ _ | complement | flipCarry => true
  | _ => false

/-- The flags an operation reads (spec/10_state.md R18). -/
def flagsRead : Operation → List (Byte → Bool)
  | adc _ _ | flipCarry => [flagC]
  | daa => [flagN, flagH, flagC]
  | jumpIf cc _ | callIf cc _ => [cc.flag]
  | _ => []

/-- The operation is a call, conditional or not. -/
def isCall : Operation → Bool
  | call _ | callIf _ _ => true
  | _ => false

/-- The operation is a call that is taken in this state. -/
def callTaken (s : State) : Operation → Bool
  | call _ => true
  | callIf cc _ => condHolds s cc
  | _ => false

end Operation

/-- The operation of each instruction. -/
def Instr.operation : Instr → Operation
  | .addAB => .add (.reg .b) (by decide)
  | .addAC => .add (.reg .c) (by decide)
  | .addAD => .add (.reg .d) (by decide)
  | .addAE => .add (.reg .e) (by decide)
  | .addAH => .add (.reg .h) (by decide)
  | .addAL => .add (.reg .l) (by decide)
  | .addAMemHL => .add .memHL (by decide)
  | .addAA => .add (.reg .a) (by decide)
  | .adcAB => .adc (.reg .b) (by decide)
  | .adcAC => .adc (.reg .c) (by decide)
  | .adcAD => .adc (.reg .d) (by decide)
  | .adcAE => .adc (.reg .e) (by decide)
  | .adcAH => .adc (.reg .h) (by decide)
  | .adcAL => .adc (.reg .l) (by decide)
  | .adcAMemHL => .adc .memHL (by decide)
  | .adcAA => .adc (.reg .a) (by decide)
  | .andAB => .and (.reg .b) (by decide)
  | .andAC => .and (.reg .c) (by decide)
  | .andAD => .and (.reg .d) (by decide)
  | .andAE => .and (.reg .e) (by decide)
  | .andAH => .and (.reg .h) (by decide)
  | .andAL => .and (.reg .l) (by decide)
  | .andAMemHL => .and .memHL (by decide)
  | .andAA => .and (.reg .a) (by decide)
  | .cpAB => .compare (.reg .b) (by decide)
  | .cpAC => .compare (.reg .c) (by decide)
  | .cpAD => .compare (.reg .d) (by decide)
  | .cpAE => .compare (.reg .e) (by decide)
  | .cpAH => .compare (.reg .h) (by decide)
  | .cpAL => .compare (.reg .l) (by decide)
  | .cpAMemHL => .compare .memHL (by decide)
  | .cpAA => .compare (.reg .a) (by decide)
  | .incB => .inc .b (by decide)
  | .incC => .inc .c (by decide)
  | .incD => .inc .d (by decide)
  | .incE => .inc .e (by decide)
  | .incH => .inc .h (by decide)
  | .incL => .inc .l (by decide)
  | .incA => .inc .a (by decide)
  | .daa => .daa
  | .cpl => .complement
  | .ccf => .flipCarry
  | .ldB d8 => .loadImmediate .b (by decide) d8
  | .ldC d8 => .loadImmediate .c (by decide) d8
  | .ldD d8 => .loadImmediate .d (by decide) d8
  | .ldE d8 => .loadImmediate .e (by decide) d8
  | .ldH d8 => .loadImmediate .h (by decide) d8
  | .ldL d8 => .loadImmediate .l (by decide) d8
  | .ldA d8 => .loadImmediate .a (by decide) d8
  | .ldMemBCA => .store .bc
  | .ldMemDEA => .store .de
  | .ldMemHLA => .store .hl
  | .ldAMemBC => .load .bc
  | .ldAMemDE => .load .de
  | .ldAMemHL => .load .hl
  | .ldMemA16SP a16 => .storeSp a16
  | .jp a16 => .jump a16
  | .jpNZ a16 => .jumpIf .nz a16
  | .jpZ a16 => .jumpIf .z a16
  | .jpNC a16 => .jumpIf .nc a16
  | .jpC a16 => .jumpIf .c a16
  | .jpHL => .jumpHL
  | .call a16 => .call a16
  | .callNZ a16 => .callIf .nz a16
  | .callZ a16 => .callIf .z a16
  | .callNC a16 => .callIf .nc a16
  | .callC a16 => .callIf .c a16
  | .halt => .halt
  | .prefixCB => .prefixFault

/-! ## What the operation of an instruction says of it -/

/-- Every instruction has a next state, the effect of its operation. -/
theorem exec_eq_run (i : Instr) (s : State) : exec i s = .next (i.operation.run s) := by
  cases i <;> rfl

theorem eq_run_of_exec {i : Instr} {s t : State} (h : exec i s = .next t) : t = i.operation.run s := by
  rw [exec_eq_run] at h
  exact (Host.Outcome.next.inj h).symm

theorem writesFlags_operation (i : Instr) : i.operation.writesFlags = writesFlags i := by
  cases i <;> rfl

theorem passesFlags_operation (i : Instr) : i.operation.passesFlags = passesFlags i := by
  cases i <;> rfl

theorem flagsRead_operation (i : Instr) : i.operation.flagsRead = flagsRead i := by
  cases i <;> rfl

theorem isCall_operation (i : Instr) : i.operation.isCall = isCall i := by
  cases i <;> rfl

theorem callTaken_operation (i : Instr) (s : State) : i.operation.callTaken s = callTaken s.f i := by
  cases i
  case callNZ => exact condHolds_nz s
  case callZ => exact condHolds_z s
  case callNC => exact condHolds_nc s
  case callC => exact condHolds_c s
  all_goals rfl

theorem eq_ldMemA16SP_of_operation {i : Instr} {target : Word} (h : i.operation = .storeSp target) :
    i = .ldMemA16SP target := by
  cases i
  case ldMemA16SP => exact congrArg Instr.ldMemA16SP (Operation.storeSp.inj h)
  all_goals exact Operation.noConfusion h

theorem operation_of_isInc {i : Instr} (h : isInc i = true) : ∃ r hr, i.operation = .inc r hr := by
  cases i
  case incB | incC | incD | incE | incH | incL | incA => exact ⟨_, _, rfl⟩
  all_goals exact Bool.noConfusion h

/-! ## The tables of forms: the operand a table writes out is the operand of the operation -/

/-- The eight ALU operands in the order of the r-field (spec/30_encoding.md R66). -/
def operandTable : List { o : Operand8 // o ≠ .reg .f } :=
  [⟨.reg .b, by decide⟩, ⟨.reg .c, by decide⟩, ⟨.reg .d, by decide⟩, ⟨.reg .e, by decide⟩,
   ⟨.reg .h, by decide⟩, ⟨.reg .l, by decide⟩, ⟨.memHL, by decide⟩, ⟨.reg .a, by decide⟩]

theorem sources_eq_map_operandValue : sources = operandTable.map fun o s => operandValue s o.1 := rfl

/-- A table of ALU forms: when its instructions are one family over `operandTable`, each is that family on an
operand whose value is the one the table writes out. -/
theorem operation_of_zip_sources {is : List Instr} {family : (o : Operand8) → o ≠ .reg .f → Operation}
    (h : is.map Instr.operation = operandTable.map fun o => family o.1 o.2) :
    ∀ form ∈ is.zip sources, ∃ o ho,
      form.1.operation = family o ho ∧ ∀ s, form.2 s = operandValue s o := by
  intro form hmem
  rw [sources_eq_map_operandValue] at hmem
  obtain ⟨k, hk, rfl⟩ := List.mem_iff_getElem.1 hmem
  have hlen : k < is.length ∧ k < operandTable.length := by simpa using hk
  have hop : is[k].operation = family operandTable[k].1 operandTable[k].2 := by
    rw [← List.getElem_map (h := by simpa using hlen.1) Instr.operation, List.getElem_of_eq h,
      List.getElem_map]
  exact ⟨operandTable[k].1, operandTable[k].2, by simpa using hop, fun s => by simp⟩

theorem operation_of_addForms : ∀ form ∈ addForms, ∃ o ho,
    form.1.operation = .add o ho ∧ ∀ s, form.2 s = operandValue s o :=
  operation_of_zip_sources rfl

theorem operation_of_adcForms : ∀ form ∈ adcForms, ∃ o ho,
    form.1.operation = .adc o ho ∧ ∀ s, form.2 s = operandValue s o :=
  operation_of_zip_sources rfl

theorem operation_of_andForms : ∀ form ∈ andForms, ∃ o ho,
    form.1.operation = .and o ho ∧ ∀ s, form.2 s = operandValue s o :=
  operation_of_zip_sources rfl

theorem operation_of_cpForms : ∀ form ∈ cpForms, ∃ o ho,
    form.1.operation = .compare o ho ∧ ∀ s, form.2 s = operandValue s o :=
  operation_of_zip_sources rfl

/-! ## The flags of the flag engine -/

namespace Machine

variable (mode : HcMode) (a b f : Byte)

@[simp] theorem flagN_aluAdd (n : Nat) : flagN (aluAdd mode a n).2 = false := flagN_flagByte ..

@[simp] theorem flagN_aluAdc : flagN (aluAdc mode a b f).2 = false := flagN_aluAdd ..

@[simp] theorem flagN_aluAnd : flagN (aluAnd a b).2 = false := flagN_flagByte ..
@[simp] theorem flagH_aluAnd : flagH (aluAnd a b).2 = true := flagH_flagByte ..
@[simp] theorem flagC_aluAnd : flagC (aluAnd a b).2 = false := flagC_flagByte ..

@[simp] theorem flagN_aluIncrement : flagN (aluIncrement a f).2 = false := flagN_flagByte ..
@[simp] theorem flagC_aluIncrement : flagC (aluIncrement a f).2 = flagC f := flagC_flagByte ..

/-- The flag byte of `DAA`: Subtract kept, Half-Carry clear, Carry never cleared (spec/40_alu_flag_engine.md
R84). -/
theorem aluDaa_flags : flagN (aluDaa a f).2 = flagN f ∧ flagH (aluDaa a f).2 = false ∧
    (flagC f = true → flagC (aluDaa a f).2 = true) := by
  unfold aluDaa
  cases flagN f
  · simp +contextual
  · simp

/-- The sum of `a` and the negation of a different `b` is not a multiple of 256, so Zero is clear. -/
theorem flagZ_aluAdd_negated {a b : Byte} (h : a ≠ b) :
    flagZ (aluAdd mode a ((0x100 - b.toNat) % 256)).2 = false := by
  have hne : a.toNat ≠ b.toNat := fun e => h (BitVec.eq_of_toNat_eq e)
  have hres : BitVec.ofNat 8 (a.toNat + (256 - b.toNat) % 256) ≠ 0#8 := by
    have ha := a.isLt
    have hb := b.isLt
    intro e
    have := congrArg BitVec.toNat e
    simp only [BitVec.toNat_ofNat] at this
    omega
  simpa [aluAdd] using hres

theorem aluCompare_reference_same {cfg : Config} (hm : cfg.cpMode = .reference) :
    aluCompare cfg a a = flagByte true true false false := by
  simp [aluCompare, hm, compareReference]

theorem aluCompare_reference_ne {cfg : Config} (hm : cfg.cpMode = .reference) {a b : Byte} (h : a ≠ b) :
    aluCompare cfg a b = (aluAdd cfg.hcMode a ((0x100 - b.toNat) % 256)).2 := by
  simp [aluCompare, hm, compareReference, h]

theorem flagN_aluCompare_corrected {cfg : Config} (hm : cfg.cpMode = .corrected) :
    flagN (aluCompare cfg a b) = true := by
  simp [aluCompare, hm, compareCorrected]

theorem aluAdc_congr_flags {f g : Byte} (h : flagC f = flagC g) : aluAdc mode a b f = aluAdc mode a b g := by
  simp [aluAdc, carryIn, h]

theorem aluDaa_congr_flags {f g : Byte} (hn : flagN f = flagN g) (hh : flagH f = flagH g)
    (hc : flagC f = flagC g) : aluDaa a f = aluDaa a g := by
  simp only [aluDaa, hn, hh, hc]

/-! ## Operands and conditions of a state whose flags or stack pointer were replaced -/

variable (s : State)

theorem readReg_set_f {r : Reg} (hr : r ≠ .f) (v : Byte) : readReg { s with f := v } r = readReg s r := by
  cases r
  case f => exact absurd rfl hr
  all_goals rfl

theorem writeReg_set_f {r : Reg} (hr : r ≠ .f) (v w : Byte) :
    writeReg r w { s with f := v } = { writeReg r w s with f := v } := by
  cases r
  case f => exact absurd rfl hr
  all_goals rfl

theorem writeReg_f_of_ne {r : Reg} (hr : r ≠ .f) (v : Byte) : (writeReg r v s).f = s.f := by
  cases r
  case f => exact absurd rfl hr
  all_goals rfl

theorem operandValue_set_f {o : Operand8} (ho : o ≠ .reg .f) (v : Byte) :
    operandValue { s with f := v } o = operandValue s o := by
  cases o with
  | reg r => exact readReg_set_f s (fun hr => ho (congrArg Operand8.reg hr)) v
  | memHL => rfl

theorem condHolds_congr {s t : State} {cc : Cond}
    (h : cc.flag s.f = cc.flag t.f) : condHolds s cc = condHolds t cc := by
  cases cc <;> simpa [Cond.flag] using h

theorem readReg_set_sp (v : Word) (r : Reg) : readReg { s with sp := v } r = readReg s r := by
  cases r <;> rfl

theorem writeReg_set_sp (v : Word) (r : Reg) (w : Byte) :
    writeReg r w { s with sp := v } = { writeReg r w s with sp := v } := by
  cases r <;> rfl

theorem operandValue_set_sp (v : Word) (o : Operand8) :
    operandValue { s with sp := v } o = operandValue s o := by
  cases o with
  | reg r => exact readReg_set_sp s v r
  | memHL => rfl

theorem condHolds_set_sp (v : Word) (cc : Cond) : condHolds { s with sp := v } cc = condHolds s cc := by
  cases cc <;> rfl

end Machine

/-! ## Each operation: its flags -/

namespace Operation

variable (s : State)

theorem run_f_of_not_writesFlags {op : Operation} (h : op.writesFlags = false) : (op.run s).f = s.f := by
  cases op
  case loadImmediate r hr v => exact writeReg_f_of_ne s hr v
  case jumpIf => exact jumpIf_f ..
  case callIf => exact callIf_f ..
  case storeSp => exact memWrite16_f ..
  case call => exact callTo_f ..
  case store | load | jump | jumpHL | halt | prefixFault => rfl
  all_goals exact Bool.noConfusion h

/-- An operation that writes flags and passes none through computes the next state from the flags it reads
alone (spec/10_state.md R18). -/
theorem run_set_f_of_not_passesFlags {op : Operation} {v : Byte}
    (h : ∀ flag ∈ op.flagsRead, flag v = flag s.f) (hw : op.writesFlags = true)
    (hp : op.passesFlags = false) : op.run { s with f := v } = op.run s := by
  cases op
  case add o ho => simp only [run, addToA_eq, operandValue_set_f s ho]
  case adc o ho =>
    have hc : flagC v = flagC s.f := h flagC (by simp [flagsRead])
    simp only [run, adcToA_eq, operandValue_set_f s ho, aluAdc_congr_flags _ _ _ hc]
  case and o ho => simp only [run, andToA_eq, operandValue_set_f s ho]
  case compare o ho => simp only [run, compareWithA_eq, operandValue_set_f s ho]
  case daa =>
    have hn : flagN v = flagN s.f := h flagN (by simp [flagsRead])
    have hh : flagH v = flagH s.f := h flagH (by simp [flagsRead])
    have hc : flagC v = flagC s.f := h flagC (by simp [flagsRead])
    have hd : aluDaa s.a (v &&& flagMask) = aluDaa s.a (s.f &&& flagMask) :=
      aluDaa_congr_flags _ (by simpa using hn) (by simpa using hh) (by simpa using hc)
    simp only [run, writeResult_a, readReg_a, readReg_f, hd]
  case inc | complement | flipCarry => exact Bool.noConfusion hp
  all_goals exact Bool.noConfusion hw

/-- Everything but the flags of the next state depends on the flags the operation reads alone (R18). -/
theorem run_set_f_but_flags {op : Operation} {v : Byte} (h : ∀ flag ∈ op.flagsRead, flag v = flag s.f) :
    { op.run { s with f := v } with f := 0 } = { op.run s with f := 0 } := by
  cases op
  case add | adc | and | compare | daa => rw [run_set_f_of_not_passesFlags s h rfl rfl]
  case inc r hr =>
    rw [run, run, incrementReg_eq, incrementReg_eq, readReg_set_f s hr, writeReg_set_f s hr]
  case loadImmediate r hr w => rw [run, run, writeReg_set_f s hr]
  case store p => cases p <;> rfl
  case load p => cases p <;> rfl
  case jumpIf cc target =>
    have hc : condHolds { s with f := v } cc = condHolds s cc := condHolds_congr (h _ (by simp [flagsRead]))
    simp only [run, Machine.jumpIf, hc]
    split <;> rfl
  case callIf cc target =>
    have hc : condHolds { s with f := v } cc = condHolds s cc := condHolds_congr (h _ (by simp [flagsRead]))
    simp only [run, Machine.callIf, hc]
    split <;> rfl
  all_goals rfl

/-! ## Each operation: the stack pointer -/

/-- Only a taken call moves the stack pointer (spec/10_state.md R22). -/
theorem run_sp (op : Operation) :
    (op.run s).sp = if op.callTaken s = true then s.sp - 1 - 1 else s.sp := by
  have htwice : s.sp - 2 = s.sp - 1 - 1 := by rw [BitVec.sub_sub]; rfl
  cases op
  case call target => exact (callTo_sp s target).trans htwice
  case callIf cc target => rw [← htwice]; exact callIf_sp s cc target
  case inc r hr => exact incrementReg_sp s r
  case loadImmediate r hr v => exact writeReg_sp s r v
  case jumpIf cc target => exact jumpIf_sp s cc target
  case storeSp target => exact memWrite16_sp s target s.sp
  all_goals rfl

/-- An operation that is neither a call nor `LD (a16),SP` passes the stack pointer through unread (R22). -/
theorem run_set_sp {op : Operation} (hcall : op.isCall = false) (hstore : ∀ target, op ≠ .storeSp target)
    (v : Word) : op.run { s with sp := v } = { op.run s with sp := v } := by
  cases op
  case add o ho => simp only [run, addToA_eq, operandValue_set_sp]
  case adc o ho => simp only [run, adcToA_eq, operandValue_set_sp]
  case and o ho => simp only [run, andToA_eq, operandValue_set_sp]
  case compare o ho => simp only [run, compareWithA_eq, operandValue_set_sp]
  case inc r hr => simp only [run, incrementReg_eq, readReg_set_sp, writeReg_set_sp]
  case loadImmediate r hr w => exact writeReg_set_sp s v r w
  case jumpIf cc target =>
    simp only [run, Machine.jumpIf, condHolds_set_sp]
    split <;> rfl
  case storeSp target => exact absurd rfl (hstore target)
  case call | callIf => exact Bool.noConfusion hcall
  all_goals rfl

end Operation

/-! ## Each operation: the table of R17 -/

namespace Operation

theorem flagN_run_add (o : Operand8) (ho : o ≠ .reg .f) (s : State) :
    flagN ((add o ho).run s).f = false := by
  rw [run, addToA_eq]; exact flagN_aluAdd ..

theorem flagN_run_adc (o : Operand8) (ho : o ≠ .reg .f) (s : State) :
    flagN ((adc o ho).run s).f = false := by
  rw [run, adcToA_eq]; exact flagN_aluAdc ..

theorem flags_run_and (o : Operand8) (ho : o ≠ .reg .f) (s : State) :
    flagN ((and o ho).run s).f = false ∧ flagH ((and o ho).run s).f = true ∧
      flagC ((and o ho).run s).f = false := by
  rw [run, andToA_eq]; exact ⟨flagN_aluAnd .., flagH_aluAnd .., flagC_aluAnd ..⟩

/-- The Compare row of the table, for equal and different operands and for the corrected mode. -/
theorem flags_run_compare (o : Operand8) (ho : o ≠ .reg .f) (s : State) :
    (s.cfg.cpMode = .reference → s.a = operandValue s o →
      flagZ ((compare o ho).run s).f = true ∧ flagN ((compare o ho).run s).f = true ∧
        flagH ((compare o ho).run s).f = false ∧ flagC ((compare o ho).run s).f = false) ∧
    (s.cfg.cpMode = .reference → s.a ≠ operandValue s o →
      flagZ ((compare o ho).run s).f = false ∧ flagN ((compare o ho).run s).f = false) ∧
    (s.cfg.cpMode = .corrected → flagN ((compare o ho).run s).f = true) := by
  rw [run, compareWithA_eq]
  refine ⟨fun hm heq => ?_, fun hm hne => ?_, fun hm => flagN_aluCompare_corrected _ _ hm⟩
  · simp [← heq, aluCompare_reference_same _ hm]
  · dsimp only
    rw [aluCompare_reference_ne hm hne]
    exact ⟨flagZ_aluAdd_negated _ hne, flagN_aluAdd ..⟩

theorem flags_run_inc (r : Reg) (hr : r ≠ .f) (s : State) :
    flagN ((inc r hr).run s).f = false ∧ flagC ((inc r hr).run s).f = flagC s.f := by
  rw [run, incrementReg_eq]; exact ⟨flagN_aluIncrement .., flagC_aluIncrement ..⟩

theorem flags_run_daa (s : State) :
    flagN (daa.run s).f = flagN s.f ∧ flagH (daa.run s).f = false ∧
      (flagC s.f = true → flagC (daa.run s).f = true) := by
  simpa [run, writeResult_a] using aluDaa_flags s.a (s.f &&& flagMask)

theorem flags_run_complement (s : State) :
    flagZ (complement.run s).f = flagZ s.f ∧ flagN (complement.run s).f = true ∧
      flagH (complement.run s).f = true ∧ flagC (complement.run s).f = flagC s.f := by
  simp [run, writeResult_a]

theorem flags_run_flipCarry (s : State) :
    flagZ (flipCarry.run s).f = flagZ s.f ∧ flagN (flipCarry.run s).f = flagN s.f ∧
      flagH (flipCarry.run s).f = flagH s.f ∧ flagC (flipCarry.run s).f = !flagC s.f := by
  simp [run]

end Operation

end Sys2Proof
end

section
/-! THEOREMS. The statements of spec/10_state.md: the flag byte, the pairs, and which instructions read and
write the flags and the stack pointer. -/

namespace Sys2Proof.Proofs

open Sys2Proof Sys2Proof.Machine Sys2Proof.Claims

/-- Settles O1: each accessor is the test of one bit, and a byte with a zero low nibble is the flag byte
built from its own four flags. -/
theorem flagBitsOfF : Obligations.FlagBitsOfF := by
  intro f
  have bit : ∀ k, f.getLsbD k = true ↔ f.toNat / 2 ^ k % 2 = 1 := fun k => by
    rw [← BitVec.testBit_toNat, Nat.testBit_eq_decide_div_mod_eq, decide_eq_true_iff]
  refine ⟨bit 7, bit 6, bit 5, bit 4, fun hlow => ?_⟩
  have hf : f = flagByte (flagZ f) (flagN f) (flagH f) (flagC f) :=
    flags_ext hlow (by simp) (by simp) (by simp) (by simp) (by simp)
  exact (congrArg BitVec.toNat hf).trans (flagByte_toNat ..)

/-- Settles O57: a pair joins the bytes of its two registers, the first named as the high byte. -/
theorem pairsAreTheirHalves : Obligations.PairsAreTheirHalves := fun _ =>
  ⟨joinBytes_toNat .., joinBytes_toNat .., joinBytes_toNat ..⟩

/-- Settles O45: each clause is the table's row for the operation of the instruction. -/
theorem flagsWrittenOnlyAsListed : Obligations.FlagsWrittenOnlyAsListed := by
  intro i s t h
  obtain rfl := eq_run_of_exec h
  refine ⟨fun hw => ?_, fun hi => ?_, fun hi => ?_, fun form hmem hi => ?_, fun hi => ?_, fun hi => ?_,
    fun hi => ?_, fun hi => ?_⟩
  · exact Operation.run_f_of_not_writesFlags s (by rw [writesFlags_operation, hw])
  · rcases hi with hi | hi
    · obtain ⟨form, hmem, rfl⟩ := List.mem_map.1 hi
      obtain ⟨o, ho, hop, -⟩ := operation_of_addForms form hmem
      rw [hop]
      exact Operation.flagN_run_add o ho s
    · obtain ⟨form, hmem, rfl⟩ := List.mem_map.1 hi
      obtain ⟨o, ho, hop, -⟩ := operation_of_adcForms form hmem
      rw [hop]
      exact Operation.flagN_run_adc o ho s
  · obtain ⟨form, hmem, rfl⟩ := List.mem_map.1 hi
    obtain ⟨o, ho, hop, -⟩ := operation_of_andForms form hmem
    rw [hop]
    exact Operation.flags_run_and o ho s
  · obtain ⟨o, ho, hop, hval⟩ := operation_of_cpForms form hmem
    rw [hi, hop, hval]
    exact Operation.flags_run_compare o ho s
  · obtain ⟨r, hr, hop⟩ := operation_of_isInc hi
    rw [hop]
    exact Operation.flags_run_inc r hr s
  · rw [hi]
    exact Operation.flags_run_daa s
  · rw [hi]
    exact Operation.flags_run_complement s
  · rw [hi]
    exact Operation.flags_run_flipCarry s

/-- Settles O46: replacing `f` by a byte with the same flags read changes nothing but `f`, and not even `f`
where no flag is passed through. -/
theorem flagsReadOnlyAsListed : Obligations.FlagsReadOnlyAsListed := by
  intro i s v h
  rw [← flagsRead_operation] at h
  rw [exec_eq_run, exec_eq_run, ← writesFlags_operation, ← passesFlags_operation]
  exact ⟨congrArg Host.Outcome.next (Operation.run_set_f_but_flags s h),
    fun hw hp => congrArg Host.Outcome.next (Operation.run_set_f_of_not_passesFlags s h hw hp)⟩

/-- Settles O47: a taken call decrements `sp` twice, and every operation but the calls and `LD (a16),SP`
commutes with replacing `sp`. -/
theorem stackPointerChangedOnlyByTakenCalls : Obligations.StackPointerChangedOnlyByTakenCalls := by
  refine ⟨fun i s t h => ?_, fun i s v hcall hstore => ?_⟩
  · rw [eq_run_of_exec h, ← callTaken_operation]
    exact Operation.run_sp s i.operation
  · rw [exec_eq_run, exec_eq_run]
    exact congrArg Host.Outcome.next (Operation.run_set_sp s (by rw [isCall_operation, hcall])
      (fun target hop => hstore target (eq_ldMemA16SP_of_operation hop)) v)

end Sys2Proof.Proofs
end

section
/-! SUPPORT. The memory spaces (spec/20_memory.md): the access primitives, and which operations read or
write which space. -/

namespace Sys2Proof

open Sys2Proof.Machine Sys2Proof.Claims

/-! ## The bytes of a word as numbers -/

theorem lowByte_eq_ofNat (w : Word) : lowByte w = BitVec.ofNat 8 (w.toNat % 256) :=
  BitVec.eq_of_toNat_eq (by rw [lowByte_toNat, BitVec.toNat_ofNat, Nat.mod_mod])

theorem highByte_eq_ofNat (w : Word) : highByte w = BitVec.ofNat 8 (w.toNat / 256) :=
  BitVec.eq_of_toNat_eq (by
    have hlt : w.toNat / 256 < 256 := Nat.div_lt_of_lt_mul w.isLt
    rw [highByte_toNat, BitVec.toNat_ofNat, Nat.mod_eq_of_lt hlt])

/-! ## The access primitives (R58) -/

namespace Machine

variable (s : State)

theorem memRead_memWrite (a x : Word) (v : Byte) :
    memRead (memWrite a v s) x = if x = a then v else memRead s x :=
  Memory.read_write s.ws a x v

/-- A two-byte write puts the low byte at `a` and the high byte at `a + 1`; the second write cannot hit the
first, since no address is its own successor. -/
theorem memRead_memWrite16 (a x v : Word) :
    memRead (memWrite16 a v s) x =
      if x = a then lowByte v else if x = a + 1 then highByte v else memRead s x := by
  have hne : a ≠ a + 1 := by simp
  rw [memWrite16, memRead_memWrite, memRead_memWrite]
  by_cases hx : x = a
  · rw [hx, if_neg hne, if_pos rfl, if_pos rfl]
  · rw [if_neg hx, if_neg hx]

/-- The bytes of a two-byte write as numbers. -/
theorem memRead_memWrite16_ofNat (a x v : Word) :
    memRead (memWrite16 a v s) x =
      if x = a then BitVec.ofNat 8 (v.toNat % 256)
      else if x = a + 1 then BitVec.ofNat 8 (v.toNat / 256) else memRead s x := by
  rw [← lowByte_eq_ofNat, ← highByte_eq_ofNat]
  exact memRead_memWrite16 s a x v

theorem memRead16_memWrite16_same (a v : Word) : memRead16 (memWrite16 a v s) a = v := by
  have hne : a + 1 ≠ a := by simp
  simp only [memRead16, memRead_memWrite16, hne, if_true, if_false, joinBytes_high_low]

theorem memRead16_toNat (a : Word) :
    (memRead16 s a).toNat = (memRead s a).toNat + 256 * (memRead s (a + 1)).toNat := by
  rw [memRead16, joinBytes_toNat, Nat.add_comm, Nat.mul_comm]

theorem progRead16_toNat (a : Word) :
    (progRead16 s a).toNat = (progRead s a).toNat + 256 * (progRead s (a + 1)).toNat := by
  rw [progRead16, joinBytes_toNat, Nat.add_comm, Nat.mul_comm]

/-! ## Operands and conditions of a state whose spaces were replaced -/

variable (ps ws : Memory)

theorem readReg_set_spaces (r : Reg) : readReg { s with ps := ps, ws := ws } r = readReg s r := by
  cases r <;> rfl

theorem writeReg_set_spaces (r : Reg) (v : Byte) :
    writeReg r v { s with ps := ps, ws := ws } = { writeReg r v s with ps := ps, ws := ws } := by
  cases r <;> rfl

theorem condHolds_set_spaces (cc : Cond) : condHolds { s with ps := ps, ws := ws } cc = condHolds s cc := by
  cases cc <;> rfl

theorem jumpIf_set_spaces (cc : Cond) (target : Word) :
    jumpIf cc target { s with ps := ps, ws := ws } = { jumpIf cc target s with ps := ps, ws := ws } := by
  rw [jumpIf, jumpIf, condHolds_set_spaces]
  split <;> rfl

theorem operandValue_set_ps (o : Operand8) : operandValue { s with ps := ps } o = operandValue s o := by
  cases o with
  | reg r => exact readReg_set_spaces s ps s.ws r
  | memHL => rfl

theorem operandValue_set_ws {o : Operand8} (ho : o ≠ .memHL) :
    operandValue { s with ws := ws } o = operandValue s o := by
  cases o with
  | reg r => exact readReg_set_spaces s s.ps ws r
  | memHL => exact absurd rfl ho

end Machine

/-! ## Each operation: working space and program space -/

namespace Operation

/-- The operation stores to working space without pushing (R42). -/
def isStore : Operation → Bool
  | store _ | storeSp _ => true
  | _ => false

/-- The operation reads working space (R42). -/
def readsWorkingSpace : Operation → Bool
  | add o _ | adc o _ | and o _ | compare o _ => o = .memHL
  | load _ => true
  | _ => false

variable (s : State)

theorem run_ws {op : Operation} (hstore : op.isStore = false) (hcall : op.callTaken s = false) :
    (op.run s).ws = s.ws := by
  cases op
  case store | storeSp | call => contradiction
  case callIf cc target =>
    have hc : condHolds s cc = false := hcall
    simp [run, hc]
  case inc r hr => exact incrementReg_ws s r
  case loadImmediate r hr v => exact writeReg_ws s r v
  case jumpIf cc target => exact jumpIf_ws s cc target
  all_goals rfl

/-- Everything but working space after an operation that does not read it is independent of it (R42). -/
theorem run_set_ws {op : Operation} (h : op.readsWorkingSpace = false) (m : Memory) :
    { op.run { s with ws := m } with ws := [] } = { op.run s with ws := [] } := by
  cases op
  case add o ho => simp only [run, addToA_eq, operandValue_set_ws s m (of_decide_eq_false h)]
  case adc o ho => simp only [run, adcToA_eq, operandValue_set_ws s m (of_decide_eq_false h)]
  case and o ho => simp only [run, andToA_eq, operandValue_set_ws s m (of_decide_eq_false h)]
  case compare o ho => simp only [run, compareWithA_eq, operandValue_set_ws s m (of_decide_eq_false h)]
  case inc r hr => simp only [run, incrementReg_eq, readReg_set_spaces, writeReg_set_spaces, writeReg_ps]
  case loadImmediate r hr v => simp only [run, writeReg_set_spaces, writeReg_ps]
  case jumpIf cc target => simp only [run, jumpIf_set_spaces, jumpIf_ps]
  case callIf cc target =>
    simp only [run, Machine.callIf, condHolds_set_spaces]
    split <;> rfl
  case load => contradiction
  all_goals rfl

/-- Every operation passes program space through unread (R41). -/
theorem run_set_ps (op : Operation) (m : Memory) :
    op.run { s with ps := m } = { op.run s with ps := m } := by
  cases op
  case add o ho => simp only [run, addToA_eq, operandValue_set_ps]
  case adc o ho => simp only [run, adcToA_eq, operandValue_set_ps]
  case and o ho => simp only [run, andToA_eq, operandValue_set_ps]
  case compare o ho => simp only [run, compareWithA_eq, operandValue_set_ps]
  case inc r hr => simp only [run, incrementReg_eq, readReg_set_spaces, writeReg_set_spaces, writeReg_ws]
  case loadImmediate r hr v => simp only [run, writeReg_set_spaces, writeReg_ws]
  case jumpIf cc target => simp only [run, jumpIf_set_spaces, jumpIf_ws]
  case callIf cc target =>
    simp only [run, Machine.callIf, condHolds_set_spaces]
    split <;> rfl
  all_goals rfl

end Operation

theorem isStore_operation (i : Instr) : i.operation.isStore = isStore i := by
  cases i <;> rfl

theorem readsWorkingSpace_operation (i : Instr) : i.operation.readsWorkingSpace = readsWorkingSpace i := by
  cases i <;> rfl

theorem exec_set_ps (i : Instr) (s : State) (m : Memory) :
    exec i { s with ps := m } = mapNext (fun t => { t with ps := m }) (exec i s) := by
  rw [exec_eq_run, exec_eq_run, Operation.run_set_ps]
  rfl

/-! ## The length of what a form names -/

theorem length_of_decodeOpcode_op {op : Byte} {i : Instr} (h : decodeOpcode op = some (.op i)) :
    i.length = 1 := by
  unfold decodeOpcode at h
  split at h <;> cases h <;> rfl

theorem length_of_decodeOpcode_d8 {op : Byte} {mk : Byte → Instr} (h : decodeOpcode op = some (.d8 mk))
    (v : Byte) : (mk v).length = 2 := by
  unfold decodeOpcode at h
  split at h <;> cases h <;> rfl

theorem length_of_decodeOpcode_a16 {op : Byte} {mk : Word → Instr} (h : decodeOpcode op = some (.a16 mk))
    (v : Word) : (mk v).length = 3 := by
  unfold decodeOpcode at h
  split at h <;> cases h <;> rfl

/-! ## Fetch and step under another space -/

namespace Machine

variable (s : State) (m : Memory)

/-- A step fetches as many bytes as the format of the opcode byte at `pc` has, and the one byte when it is
unimplemented (spec/42_dispatch_loop.md R161, R164). -/
theorem fetchedBytes_eq :
    fetchedBytes s = ((decodeOpcode (s.ps.read s.pc)).map OpcodeForm.length).getD 1 := by
  unfold fetchedBytes
  rcases hd : decodeOpcode (s.ps.read s.pc) with _ | (i | mk | mk)
  · rw [decode_none hd]; rfl
  · rw [decode_op hd]; exact length_of_decodeOpcode_op hd
  · rw [decode_d8 hd]; exact length_of_decodeOpcode_d8 hd _
  · rw [decode_a16 hd]; exact length_of_decodeOpcode_a16 hd _

theorem fetchedBytes_pos : 0 < fetchedBytes s := by
  rw [fetchedBytes_eq]
  rcases decodeOpcode (s.ps.read s.pc) with _ | (i | mk | mk) <;> simp [OpcodeForm.length]

theorem fetchInstr_set_ws :
    fetchInstr { s with ws := m } = ((fetchInstr s).1, { (fetchInstr s).2 with ws := m }) := by
  have hwindow : fetchWindow { s with ws := m } = fetchWindow s := rfl
  rw [fetchInstr_eq, fetchInstr_eq, hwindow]
  rcases decode (fetchWindow s) with _ | ⟨i, rest⟩ <;> rfl

variable {s m}

/-- The fetch reads program space at the bytes it fetches alone (R41). -/
theorem fetchInstr_set_ps (hagree : ∀ k, k < fetchedBytes s →
      m.read (s.pc + BitVec.ofNat 16 k) = s.ps.read (s.pc + BitVec.ofNat 16 k)) :
    fetchInstr { s with ps := m } = ((fetchInstr s).1, { (fetchInstr s).2 with ps := m }) := by
  have hop : m.read s.pc = s.ps.read s.pc := by simpa using hagree 0 (fetchedBytes_pos s)
  rcases hd : decodeOpcode (s.ps.read s.pc) with _ | (i | mk | mk)
  · simp [fetchInstr, fetchByte_eq, hop, hd]
  · simp [fetchInstr, fetchByte_eq, hop, hd]
  · have hlen : fetchedBytes s = 2 := by rw [fetchedBytes_eq, hd]; rfl
    have himm := hagree 1 (by omega)
    simp [fetchInstr, fetchByte_eq, hop, hd, himm]
  · have hlen : fetchedBytes s = 3 := by rw [fetchedBytes_eq, hd]; rfl
    have hlo := hagree 1 (by omega)
    have hhi := hagree 2 (by omega)
    have hpc : s.pc + 1#16 + 1#16 = s.pc + 2#16 := by rw [BitVec.add_assoc]; rfl
    simp [fetchInstr, fetchByte_eq, hop, hd, hlo, hhi, hpc]

/-- A step reads program space at the bytes it fetches alone, and passes it through (R41). -/
theorem step_set_ps (hagree : ∀ k, k < fetchedBytes s →
      m.read (s.pc + BitVec.ofNat 16 k) = s.ps.read (s.pc + BitVec.ofNat 16 k)) :
    step { s with ps := m } = mapNext (fun t => { t with ps := m }) (step s) := by
  by_cases hrun : s.run = .running
  · have hrun' : State.run { s with ps := m } = .running := hrun
    rw [step_of_running hrun', step_of_running hrun, fetchInstr_set_ps hagree]
    rcases fetchInstr s with ⟨_ | i, t⟩
    · rfl
    · exact exec_set_ps i t m
  · rcases hended : s.run with _ | _ | cause
    · exact absurd hended hrun
    · simp [step, hended, mapNext]
    · simp [step, hended, mapNext]

end Machine

end Sys2Proof
end

section
/-! THEOREMS. The statements of spec/20_memory.md: the access primitives, and which instructions read and
write the two spaces. -/

namespace Sys2Proof.Proofs

open Sys2Proof Sys2Proof.Machine Sys2Proof.Claims

/-- Settles O50: a step commutes with replacing program space by one that agrees on the fetched bytes. That
it never changes program space is the case of replacing it by itself. -/
theorem programSpaceOnlyFetched : Obligations.ProgramSpaceOnlyFetched := by
  refine ⟨fun s t h => ?_, exec_set_ps, fun _ _ => step_set_ps⟩
  have hself : step s = mapNext (fun t => { t with ps := s.ps }) (step s) :=
    step_set_ps (s := s) (m := s.ps) fun _ _ => rfl
  rw [h] at hself
  have heq : t = { t with ps := s.ps } := Host.Outcome.next.inj hself
  rw [heq]

/-- Settles O31: `LD (a16),SP` is the two-byte write of `sp`. -/
theorem storeStackPointerLittleEndian : Obligations.StoreStackPointerLittleEndian := fun s a16 =>
  ⟨memWrite16 a16 s.sp s, exec_ldMemA16SP s a16,
    fun x => memRead_memWrite16_ofNat s a16 x s.sp, memWrite16_eq s a16 s.sp⟩

/-- Settles O49: an operation keeps working space unless it stores or pushes, is independent of it unless it
reads it, and the fetch window lies in program space. -/
theorem workingSpaceAccessedOnlyAsListed : Obligations.WorkingSpaceAccessedOnlyAsListed := by
  refine ⟨fun i s t h hstore hcall => ?_, fun i s m hread => ?_, fetchInstr_set_ws⟩
  · rw [eq_run_of_exec h]
    exact Operation.run_ws s (by rw [isStore_operation, hstore]) (by rw [callTaken_operation, hcall])
  · rw [exec_eq_run, exec_eq_run]
    exact congrArg Host.Outcome.next
      (Operation.run_set_ws s (by rw [readsWorkingSpace_operation, hread]) m)

/-- Settles O59: the equations of the one-byte and two-byte accesses to both spaces. -/
theorem accessPrimitives : Obligations.AccessPrimitives :=
  ⟨fun _ _ => ⟨rfl, rfl⟩, progRead16_toNat, memRead_memWrite, memRead_memWrite16_ofNat, memRead16_toNat,
    memRead16_memWrite16_same, memWrite16_eq, fun _ _ _ => rfl⟩

end Sys2Proof.Proofs
end

section
/-! SUPPORT. The results and the flag bytes of the flag engine as exact numbers and bits
(spec/40_alu_flag_engine.md). -/

namespace Sys2Proof.Machine

open Sys2Proof.Claims

/-- A built flag byte has the flags its four tests decide, and a zero low nibble. -/
theorem flagsAre_flagByte {z n h c : Bool} {Z N H C : Prop} (hz : z = true ↔ Z) (hn : n = true ↔ N)
    (hh : h = true ↔ H) (hc : c = true ↔ C) : FlagsAre (flagByte z n h c) Z N H C := by
  rw [FlagsAre, flagZ_flagByte, flagN_flagByte, flagH_flagByte, flagC_flagByte]
  exact ⟨hz, hn, hh, hc, flagByte_low z n h c⟩

/-- The Zero test of the engine on the exact value of the result. -/
theorem beq_zero_iff_toNat (res : Byte) : (res == 0) = true ↔ res.toNat = 0 := by
  rw [beq_iff_eq, ← BitVec.toNat_inj]; rfl

/-- The Zero test of the engine bit by bit. -/
theorem beq_zero_iff_bits (res : Byte) : (res == 0) = true ↔ ∀ k, k < 8 → res.getLsbD k = false := by
  simp only [beq_iff_eq, BitVec.eq_of_getLsbD_eq_iff, BitVec.ofNat_eq_ofNat, BitVec.getLsbD_zero]

/-! ## Add (R81, R92) -/

variable (mode : HcMode) (a b v f : Byte) (n : Nat)

theorem aluAdd_toNat : (aluAdd mode a n).1.toNat = (a.toNat + n) % 256 := BitVec.toNat_ofNat ..

theorem flagsAre_aluAdd : FlagsAre (aluAdd mode a n).2 ((a.toNat + n) % 256 = 0) False
    (halfCarryTest mode a.toNat ((a.toNat + n) % 256) n) (a.toNat + n > 255) := by
  rw [← aluAdd_toNat mode]
  refine flagsAre_flagByte (beq_zero_iff_toNat _) (by decide) ?_ decide_eq_true_iff
  cases mode
  case postUpdate => exact decide_eq_true_iff
  case preUpdate => exact decide_eq_true_iff

/-! ## And (R83) -/

theorem aluAnd_getLsbD (k : Nat) : (aluAnd a b).1.getLsbD k = (a.getLsbD k && b.getLsbD k) :=
  BitVec.getLsbD_and

theorem flagsAre_aluAnd : FlagsAre (aluAnd a b).2
    (∀ k, k < 8 → (a.getLsbD k && b.getLsbD k) = false) False True False := by
  simp only [← aluAnd_getLsbD]
  exact flagsAre_flagByte (beq_zero_iff_bits _) (by decide) (by decide) (by decide)

/-! ## Increment (R89) -/

theorem aluIncrement_toNat : (aluIncrement v f).1.toNat = (v.toNat + 1) % 256 := BitVec.toNat_add v 1

theorem flagsAre_aluIncrement : FlagsAre (aluIncrement v f).2 ((v.toNat + 1) % 256 = 0) False
    (v.toNat % 16 + 1 > 15) (flagC f = true) := by
  rw [← aluIncrement_toNat v f]
  exact flagsAre_flagByte (beq_zero_iff_toNat _) (by decide) decide_eq_true_iff Iff.rfl

/-! ## Complement (R87) -/

theorem aluComplement_toNat : (aluComplement a f).1.toNat = 255 - a.toNat := BitVec.toNat_not

/-- The bits Complement sets lie above the low nibble. -/
theorem aluComplement_low : (aluComplement a f).2 &&& 0x0F = f &&& 0x0F := by
  have hset : (0x60 : Byte) &&& 0x0F = 0 := by decide
  calc (f ||| 0x60) &&& 0x0F
    _ = f &&& 0x0F ||| 0x60 &&& 0x0F := BitVec.and_or_distrib_right
    _ = f &&& 0x0F := by rw [hset]; exact BitVec.or_zero

/-! ## Flip-Carry (R88) -/

theorem flagsAre_run_flipCarry (s : State) : FlagsAre (Operation.flipCarry.run s).f
    (flagZ s.f = true) (flagN s.f = true) (flagH s.f = true) (flagC s.f = false) := by
  obtain ⟨hz, hn, hh, hc⟩ := Operation.flags_run_flipCarry s
  rw [FlagsAre, hz, hn, hh, hc, Bool.not_eq_true']
  exact ⟨Iff.rfl, Iff.rfl, Iff.rfl, Iff.rfl, mask_low _⟩

end Sys2Proof.Machine
end

section
/-! THEOREMS. The statements of spec/40_alu_flag_engine.md: the result and the four flags of Add, And,
Increment, Complement and Flip-Carry. -/

namespace Sys2Proof.Proofs

open Sys2Proof Sys2Proof.Machine Sys2Proof.Claims

/-- Settles O2: the sum modulo 256 and the flag byte of its four tests. It holds beyond the range of `b`. -/
theorem addResultAndFlags : Obligations.AddResultAndFlags := fun mode a b _ =>
  ⟨aluAdd_toNat mode a b, flagsAre_aluAdd mode a b⟩

/-- Settles O4: the result bit by bit, and Zero as every bit of it clear. -/
theorem andResultAndFlags : Obligations.AndResultAndFlags := fun a b =>
  ⟨fun k _ => aluAnd_getLsbD a b k, flagsAre_aluAnd a b⟩

/-- Settles O11: the successor modulo 256, Half-Carry from the value before, Carry that of `f`. -/
theorem incrementResultAndFlags : Obligations.IncrementResultAndFlags := fun v f =>
  ⟨aluIncrement_toNat v f, flagsAre_aluIncrement v f⟩

/-- Settles O10: the bits or-ed into `f` are Subtract and Half-Carry. -/
theorem complementResultAndFlags : Obligations.ComplementResultAndFlags := fun a f =>
  ⟨aluComplement_toNat a f, flagZ_complement f a, flagN_complement f a, flagH_complement f a,
    flagC_complement f a, aluComplement_low a f⟩

/-- Settles O20: `CCF` is the flip of Carry, which writes `f` alone. -/
theorem flipCarryTogglesCarryOnly : Obligations.FlipCarryTogglesCarryOnly := fun s =>
  ⟨Operation.flipCarry.run s, exec_ccf s, flagsAre_run_flipCarry s, rfl⟩

end Sys2Proof.Proofs
end

section
/-! SUPPORT. Conditional control transfer (spec/43_control_transfer.md): the conditional forms by their
condition, and what a form that is not taken does. -/

namespace Sys2Proof

open Sys2Proof.Machine Sys2Proof.Claims

/-! ## The conditional forms by their condition -/

/-- A condition as a test of the flag byte (R180). -/
def Cond.Test : Cond → Byte → Prop
  | .nz => fun f => flagZ f = false
  | .z => fun f => flagZ f = true
  | .nc => fun f => flagC f = false
  | .c => fun f => flagC f = true

/-- `JP cc,a16` (R182 to R185). -/
def Instr.jpOn : Cond → Word → Instr
  | .nz => .jpNZ
  | .z => .jpZ
  | .nc => .jpNC
  | .c => .jpC

/-- `CALL cc,a16` (R189 to R192). -/
def Instr.callOn : Cond → Word → Instr
  | .nz => .callNZ
  | .z => .callZ
  | .nc => .callNC
  | .c => .callC

theorem jumpForms_eq_map :
    jumpForms = [Cond.nz, .z, .nc, .c].map fun cc => (Instr.jpOn cc, cc.Test) := rfl

theorem callForms_eq_map :
    callForms = [Cond.nz, .z, .nc, .c].map fun cc => (Instr.callOn cc, cc.Test) := rfl

theorem length_jpOn (cc : Cond) (target : Word) : (Instr.jpOn cc target).length = 3 := by
  cases cc <;> rfl

theorem length_callOn (cc : Cond) (target : Word) : (Instr.callOn cc target).length = 3 := by
  cases cc <;> rfl

namespace Machine

variable (s : State) (cc : Cond) (target : Word)

theorem exec_jpOn : exec (.jpOn cc target) s = .next (jumpIf cc target s) := by
  cases cc <;> rfl

theorem exec_callOn : exec (.callOn cc target) s = .next (callIf cc target s) := by
  cases cc <;> rfl

theorem condHolds_iff_test : condHolds s cc = true ↔ cc.Test s.f := by
  cases cc <;> simp [Cond.Test]

/-! ## A form that is not taken -/

variable {s cc}

theorem jumpIf_not_taken (h : ¬ cc.Test s.f) : jumpIf cc target s = s :=
  if_neg (mt (condHolds_iff_test s cc).1 h)

theorem callIf_not_taken (h : ¬ cc.Test s.f) : callIf cc target s = s :=
  if_neg (mt (condHolds_iff_test s cc).1 h)

/-- A conditional form that is not taken is three bytes long and leaves the whole state as it is. -/
theorem conditional_not_taken {form : (Word → Instr) × (Byte → Prop)} (hform : form ∈ jumpForms ++ callForms)
    (h : ¬ form.2 s.f) : (form.1 target).length = 3 ∧ exec (form.1 target) s = .next s := by
  rcases List.mem_append.1 hform with hjump | hcall
  · rw [jumpForms_eq_map] at hjump
    obtain ⟨cc, -, rfl⟩ := List.mem_map.1 hjump
    exact ⟨length_jpOn cc target, by rw [exec_jpOn, jumpIf_not_taken target h]⟩
  · rw [callForms_eq_map] at hcall
    obtain ⟨cc, -, rfl⟩ := List.mem_map.1 hcall
    exact ⟨length_callOn cc target, by rw [exec_callOn, callIf_not_taken target h]⟩

/-- A running machine executes the instruction at `pc`, with `pc` already past its bytes
(spec/42_dispatch_loop.md R161). -/
theorem step_of_decode {i : Instr} {rest : List Byte} (hrun : s.run = .running)
    (hdecode : decode (fetchWindow s) = .ok (i, rest)) :
    step s = exec i { s with pc := s.pc + BitVec.ofNat 16 i.length } := by
  rw [step_of_running hrun, fetchInstr_eq, hdecode]

end Machine

end Sys2Proof
end

section
/-! THEOREMS. The statements of spec/43_control_transfer.md: the four conditions, and the conditional forms
that are not taken. -/

namespace Sys2Proof.Proofs

open Sys2Proof Sys2Proof.Machine Sys2Proof.Claims

/-- Settles O43: the fetch moves `pc` past the three bytes of the form, whose execution then changes
nothing. -/
theorem notTakenLandsPastTheOperands : Obligations.NotTakenLandsPastTheOperands := by
  intro form hform s target rest hrun hnot hdecode
  obtain ⟨hlength, hexec⟩ :=
    conditional_not_taken (s := { s with pc := s.pc + 3 }) target hform hnot
  rw [step_of_decode hrun hdecode, hlength]
  exact hexec

/-- Settles O24: the conditions test the accessors of Zero and Carry, which are bits 7 and 4 of `f`. -/
theorem conditionsTestZeroOrCarry : Obligations.ConditionsTestZeroOrCarry := by
  intro s
  obtain ⟨hzero, -, -, hcarry, -⟩ := flagBitsOfF s.f
  have hzero_clear : flagZ s.f = false ↔ s.f.toNat / 128 % 2 = 0 := by
    rw [← Bool.not_eq_true, hzero, Nat.mod_two_not_eq_one]
  have hcarry_clear : flagC s.f = false ↔ s.f.toNat / 16 % 2 = 0 := by
    rw [← Bool.not_eq_true, hcarry, Nat.mod_two_not_eq_one]
  exact ⟨(condHolds_iff_test s .nz).trans hzero_clear, (condHolds_iff_test s .z).trans hzero,
    (condHolds_iff_test s .nc).trans hcarry_clear, (condHolds_iff_test s .c).trans hcarry⟩

end Sys2Proof.Proofs
end

section
/-! SUPPORT. The run state (spec/60_exceptions.md R221): which operations write it, and how a step can fault. -/

namespace Sys2Proof

open Sys2Proof.Machine

theorem eq_halt_of_operation {i : Instr} (h : i.operation = .halt) : i = .halt := by
  cases i
  case halt => rfl
  all_goals exact Operation.noConfusion h

theorem eq_prefixCB_of_operation {i : Instr} (h : i.operation = .prefixFault) : i = .prefixCB := by
  cases i
  case prefixCB => rfl
  all_goals exact Operation.noConfusion h

/-- Only HALT and the byte 0xCB write the run state. -/
theorem Operation.run_run (s : State) {op : Operation} (hhalt : op ≠ .halt) (hprefix : op ≠ .prefixFault) :
    (op.run s).run = s.run := by
  cases op
  case halt => contradiction
  case prefixFault => contradiction
  case inc r hr => exact incrementReg_run s r
  case loadImmediate r hr v => exact writeReg_run s r v
  case storeSp target => exact memWrite16_run s target s.sp
  case jumpIf cc target => exact jumpIf_run s cc target
  case call target => exact callTo_run s target
  case callIf cc target => exact callIf_run s cc target
  all_goals rfl

namespace Machine

variable {i : Instr} {s t : State}

/-- An instruction of the table keeps the run state, but for HALT, which ends the run normally. -/
theorem run_of_exec (h : exec i s = .next t) (hi : i ≠ .prefixCB) :
    t.run = s.run ∨ (i = .halt ∧ t.run = .halted) := by
  obtain rfl := eq_run_of_exec h
  by_cases hhalt : i = .halt
  · subst hhalt
    exact .inr ⟨rfl, haltRun_run s⟩
  · exact .inl (Operation.run_run s (mt eq_halt_of_operation hhalt) (mt eq_prefixCB_of_operation hi))

/-- A step that faults on bytes that decode has decoded the byte 0xCB. -/
theorem eq_prefixCB_of_step_faulted {rest : List Byte} {cause : FaultCause} (hstep : step s = .next t)
    (hfault : t.run = .faulted cause) (hdecode : decode (fetchWindow s) = .ok (i, rest)) : i = .prefixCB := by
  obtain ⟨hrun, -⟩ := step_next_cases hstep
  rw [step_of_decode hrun hdecode] at hstep
  by_contra hi
  rcases run_of_exec hstep hi with hkept | ⟨-, hhalted⟩
  · have hrunning : t.run = .running := hkept.trans hrun
    exact RunState.noConfusion (hrunning.symm.trans hfault)
  · exact RunState.noConfusion (hhalted.symm.trans hfault)

end Machine

end Sys2Proof
end

section
/-! THEOREMS. The statement of spec/60_exceptions.md: a fault comes from the fetched opcode byte. -/

namespace Sys2Proof.Proofs

open Sys2Proof Sys2Proof.Machine Sys2Proof.Claims

/-- Settles O41: every instruction has a next state, in which only HALT and the byte 0xCB have written the
run state; so a step that decodes to anything but that byte ends Running or Halted. -/
theorem faultsBelongToTheFetch : Obligations.FaultsBelongToTheFetch :=
  ⟨fun i s hi => ⟨i.operation.run s, exec_eq_run i s, run_of_exec (exec_eq_run i s) hi⟩,
    fun _ _ _ hstep hfault _ _ => eq_prefixCB_of_step_faulted hstep hfault⟩

end Sys2Proof.Proofs
end

section
/-! SUPPORT. The encoding (spec/30_encoding.md): the form of every instruction's opcode byte, and what a form
names has that opcode byte. -/

namespace Sys2Proof

open Sys2Proof.Machine Sys2Proof.Claims

/-! ## From an instruction to its bytes and back -/

/-- The opcode byte of an instruction is in the map, and its form reads the operand bytes back (R61, R68). -/
theorem exists_form_of_opcode (i : Instr) : ∃ form, decodeOpcode i.opcode = some form ∧
    ∀ rest, form.withOperand (i.operandBytes ++ rest) = some (i, rest) := by
  cases i
  case ldMemA16SP | jp | jpNZ | jpZ | jpNC | jpC | call | callNZ | callZ | callNC | callC =>
    exact ⟨_, rfl, fun rest => by
      simp [Instr.operandBytes, OpcodeForm.withOperand]⟩
  all_goals exact ⟨_, rfl, fun _ => rfl⟩

theorem decode_of_form {op : Byte} {form : OpcodeForm} {rest : List Byte} {read : Instr × List Byte}
    (hform : decodeOpcode op = some form) (hread : form.withOperand rest = some read) :
    decode (op :: rest) = .ok read := by
  simp [decode, hform, hread]

theorem decode_encode (i : Instr) (rest : List Byte) : decode (encode i ++ rest) = .ok (i, rest) := by
  obtain ⟨form, hform, hread⟩ := exists_form_of_opcode i
  exact decode_of_form hform (hread rest)

/-! ## From bytes to the instruction and back -/

theorem encode_of_decodeOpcode_op {op : Byte} {i : Instr} (h : decodeOpcode op = some (.op i)) :
    encode i = [op] := by
  unfold decodeOpcode at h
  split at h <;> cases h
  all_goals next hop => exact congrArg (fun b => [b]) (BitVec.eq_of_toNat_eq hop.symm)

theorem encode_of_decodeOpcode_d8 {op : Byte} {mk : Byte → Instr} (h : decodeOpcode op = some (.d8 mk))
    (v : Byte) : encode (mk v) = [op, v] := by
  unfold decodeOpcode at h
  split at h <;> cases h
  all_goals next hop => exact congrArg (fun b => [b, v]) (BitVec.eq_of_toNat_eq hop.symm)

theorem encode_of_decodeOpcode_a16 {op : Byte} {mk : Word → Instr} (h : decodeOpcode op = some (.a16 mk))
    (w : Word) : encode (mk w) = [op, lowByte w, highByte w] := by
  unfold decodeOpcode at h
  split at h <;> cases h
  all_goals next hop => exact congrArg (fun b => [b, lowByte w, highByte w]) (BitVec.eq_of_toNat_eq hop.symm)

/-- What a form reads from the bytes after its opcode byte is encoded by exactly the bytes it took. -/
theorem encode_of_withOperand {op : Byte} {form : OpcodeForm} {tail rest : List Byte} {i : Instr}
    (hform : decodeOpcode op = some form) (hread : form.withOperand tail = some (i, rest)) :
    op :: tail = encode i ++ rest := by
  match form, tail, hread with
  | .op _, _, rfl => rw [encode_of_decodeOpcode_op hform]; rfl
  | .d8 _, v :: _, rfl => rw [encode_of_decodeOpcode_d8 hform]; rfl
  | .a16 _, lo :: hi :: _, rfl =>
    rw [encode_of_decodeOpcode_a16 hform, lowByte_joinBytes, highByte_joinBytes]; rfl

theorem eq_encode_append_of_decode {bytes rest : List Byte} {i : Instr} (h : decode bytes = .ok (i, rest)) :
    bytes = encode i ++ rest := by
  match bytes, h with
  | op :: tail, h =>
    rcases hform : decodeOpcode op with _ | form
    · rw [decode_none hform] at h
      cases h
    · rcases hread : form.withOperand tail with _ | read
      · simp [decode, hform, hread] at h
      · rw [decode_of_form hform hread] at h
        cases h
        exact encode_of_withOperand hform hread

theorem length_encode (i : Instr) : (encode i).length = i.length := Nat.add_comm _ 1

/-- Every operand fits its field, since its type has the field's width (R65). -/
theorem wellFormed_eq_true (i : Instr) : i.wellFormed = true := by
  cases i
  case ldB v | ldC v | ldD v | ldE v | ldH v | ldL v | ldA v => exact decide_eq_true v.isLt
  case ldMemA16SP w | jp w | jpNZ w | jpZ w | jpNC w | jpC w | call w | callNZ w | callZ w | callNC w | callC w =>
    exact decide_eq_true w.isLt
  all_goals rfl

/-! ## The bytes outside the map (R69) -/

/-- The numbers in a list of ranges, both ends included. -/
def inRanges (ranges : List (Nat × Nat)) (n : Nat) : Bool :=
  ranges.any fun range => range.1 ≤ n && n ≤ range.2

theorem unimplemented_iff_inRanges (op : Byte) :
    unimplemented op ↔ inRanges unimplementedRanges op.toNat = true := by
  simp [unimplemented, inRanges]

/-- The map leaves out exactly the listed ranges: a check of each of the 256 bytes. -/
theorem decodeOpcode_isNone : ∀ op : Byte,
    (decodeOpcode op).isNone = inRanges unimplementedRanges op.toNat := by
  decide

theorem decodeOpcode_eq_none_iff (op : Byte) : decodeOpcode op = none ↔ unimplemented op := by
  rw [← Option.isNone_iff_eq_none, decodeOpcode_isNone, unimplemented_iff_inRanges]

theorem decode_unimplemented_iff (op : Byte) (rest : List Byte) :
    decode (op :: rest) = .error (.unimplementedOpcode op) ↔ decodeOpcode op = none := by
  refine ⟨fun h => ?_, fun h => decode_none h rest⟩
  rcases hform : decodeOpcode op with _ | form
  · rfl
  · rcases hread : form.withOperand rest with _ | read
    · simp [decode, hform, hread] at h
    · rw [decode_of_form hform hread] at h
      cases h

end Sys2Proof
end

section
/-! THEOREMS. The statements of spec/30_encoding.md: decoding and encoding are inverse, and the bytes outside
the opcode map are refused. -/

namespace Sys2Proof.Proofs

open Sys2Proof Sys2Proof.Machine Sys2Proof.Claims

/-- Settles O32: the form of the opcode byte reads the operand bytes back. -/
theorem decodeOfEncode : Obligations.DecodeOfEncode := fun i rest _ => decode_encode i rest

/-- Settles O33: whatever a form names is encoded by the opcode byte of the form and the operand bytes read. -/
theorem encodeOfDecode : Obligations.EncodeOfDecode := fun _ _ i h =>
  ⟨eq_encode_append_of_decode h, length_encode i, wellFormed_eq_true i⟩

/-- Settles O34: the decoder names an opcode byte as unimplemented when the map has no form for it, which are
the bytes of the listed ranges. -/
theorem unimplementedBytesAreRefused : Obligations.UnimplementedBytesAreRefused := fun op rest =>
  (decode_unimplemented_iff op rest).trans (decodeOpcode_eq_none_iff op)

/-- Settles O35: each word is the encoding of the instruction the map names, with nothing after it. -/
theorem specWordsDecode : Obligations.SpecWordsDecode :=
  ⟨decode_encode .addAB [], decode_encode .adcAMemHL [], decode_encode .andAMemHL [], decode_encode .cpAA [],
    decode_encode .incL [], decode_encode .daa [], decode_encode .cpl [], decode_encode .ccf [],
    decode_encode .halt [], decode_encode .prefixCB [], decode_encode (.jp 0x1234) [],
    decode_encode (.jpC 0x8000) [], decode_encode .jpHL [], decode_encode (.call 0x2000) [],
    decode_encode (.callNC 0x5678) [], decode_encode (.ldH 0xA4) [], decode_encode .ldMemDEA [],
    decode_encode .ldAMemBC [], decode_encode (.ldMemA16SP 0xC000) []⟩

end Sys2Proof.Proofs
end

section
/-! SUPPORT. The rest of the flag engine (spec/40_alu_flag_engine.md): Add-with-carry, Decimal Adjust with its
two derived properties, and both compares. -/

namespace Sys2Proof.Machine

open Sys2Proof.Claims

variable (mode : HcMode) (a b v f : Byte)

/-! ## Add-with-carry (R82) -/

theorem flagC_iff_div : flagC f = true ↔ f.toNat / 16 % 2 = 1 := by
  obtain ⟨-, -, -, hcarry, -⟩ := Proofs.flagBitsOfF f
  exact hcarry

theorem carryIn_eq_carryOf : carryIn f = carryOf f := by
  have hbit := flagC_iff_div f
  rw [carryIn, carryOf]
  split
  case isTrue h => exact (hbit.1 h).symm
  case isFalse h => exact (Nat.mod_two_ne_one.1 (mt hbit.2 h)).symm

/-- Add-with-carry is Add of the incremented operand, not truncated (decision D9). -/
theorem aluAdc_eq_aluAdd : aluAdc mode a b f = aluAdd mode a (b.toNat + carryOf f) := by
  rw [aluAdc, carryIn_eq_carryOf]

theorem aluAdc_toNat : (aluAdc mode a b f).1.toNat = (a.toNat + b.toNat + carryOf f) % 256 := by
  rw [aluAdc_eq_aluAdd, aluAdd_toNat, Nat.add_assoc]

theorem flagsAre_aluAdc : FlagsAre (aluAdc mode a b f).2 ((a.toNat + b.toNat + carryOf f) % 256 = 0) False
    (halfCarryTest mode a.toNat ((a.toNat + b.toNat + carryOf f) % 256) (b.toNat + carryOf f))
    (a.toNat + b.toNat + carryOf f > 255) := by
  rw [aluAdc_eq_aluAdd, Nat.add_assoc]
  exact flagsAre_aluAdd mode a (b.toNat + carryOf f)

/-! ## Compare (R85, R86) -/

theorem compareReference_same : compareReference mode a a = 0xC0 := by
  rw [compareReference, if_pos rfl]; rfl

/-- The reference compare of different values is Add of the negated operand: the sum is a multiple of 256 for
equal values only, and it exceeds 255 exactly when the operand is not 0 and below the accumulator. -/
theorem flagsAre_compareReference_ne (h : a ≠ v) : FlagsAre (compareReference mode a v) False False
    (halfCarryTest mode a.toNat ((a.toNat + 256 - v.toNat) % 256) ((256 - v.toNat) % 256))
    (v.toNat ≠ 0 ∧ v.toNat < a.toNat) := by
  have ha := a.isLt
  have hv := v.isLt
  have hne : a.toNat ≠ v.toNat := mt BitVec.eq_of_toNat_eq h
  have hres : (a.toNat + (256 - v.toNat) % 256) % 256 = (a.toNat + 256 - v.toNat) % 256 := by omega
  have hzero : ((a.toNat + 256 - v.toNat) % 256 = 0) = False := eq_false (by omega)
  have hcarry : (a.toNat + (256 - v.toNat) % 256 > 255) = (v.toNat ≠ 0 ∧ v.toNat < a.toNat) :=
    propext (by omega)
  have hadd := flagsAre_aluAdd mode a ((256 - v.toNat) % 256)
  rw [hres, hzero, hcarry] at hadd
  rw [compareReference, if_neg h]
  exact hadd

theorem flagsAre_compareCorrected : FlagsAre (compareCorrected a v) (a = v) True
    (a.toNat % 16 < v.toNat % 16) (a.toNat < v.toNat) :=
  flagsAre_flagByte beq_iff_eq (by decide) decide_eq_true_iff decide_eq_true_iff

/-! ## Decimal Adjust (R84) -/

/-- Whether the additive branch adds 0x60. -/
def daaHigh : Bool := flagC f || decide (a.toNat > 0x99)

/-- Whether the additive branch adds 0x06. -/
def daaLow : Bool := flagH f || decide (a.toNat % 16 > 9)

theorem daaHigh_iff : daaHigh a f = true ↔ flagC f = true ∨ a.toNat > 0x99 := by simp [daaHigh]

theorem daaLow_iff : daaLow a f = true ↔ flagH f = true ∨ a.toNat % 16 > 9 := by simp [daaLow]

/-- What the additive branch adds. -/
def daaCorrection (high low : Bool) : Byte := (if high then 0x60 else 0x00) ||| (if low then 0x06 else 0x00)

theorem daaCorrection_toNat (high low : Bool) :
    (daaCorrection high low).toNat = (if high = true then 0x60 else 0) + (if low = true then 0x06 else 0) := by
  revert high low; decide

variable {a f}

theorem aluDaa_additive_fst (hn : flagN f = false) :
    (aluDaa a f).1 = a + daaCorrection (daaHigh a f) (daaLow a f) := by
  simp [aluDaa, hn, daaHigh, daaLow, daaCorrection]

theorem aluDaa_additive_snd (hn : flagN f = false) :
    (aluDaa a f).2 = flagByte ((aluDaa a f).1 == 0) false false (daaHigh a f) := by
  simp [aluDaa, hn, daaHigh]

theorem aluDaa_additive_toNat (hn : flagN f = false) : (aluDaa a f).1.toNat =
    (a.toNat + (if flagC f = true ∨ a.toNat > 0x99 then 0x60 else 0)
      + (if flagH f = true ∨ a.toNat % 16 > 9 then 0x06 else 0)) % 256 := by
  simp only [aluDaa_additive_fst hn, BitVec.toNat_add, daaCorrection_toNat, daaHigh_iff, daaLow_iff,
    Nat.add_assoc]

theorem flagsAre_aluDaa_additive (hn : flagN f = false) : FlagsAre (aluDaa a f).2 ((aluDaa a f).1 = 0) False
    False (flagC f = true ∨ a.toNat > 0x99) := by
  rw [aluDaa_additive_snd hn]
  exact flagsAre_flagByte beq_iff_eq (by decide) (by decide) (daaHigh_iff a f)

/-- The subtractive branch takes off the correction for Carry and Half-Carry, its two parts added. -/
theorem aluDaa_subtractive_fst (hn : flagN f = true) :
    (aluDaa a f).1 = a - daaCorrection (flagC f) (flagH f) := by
  have hparts : ∀ high low : Bool,
      (if high then 0x60 else 0x00) + (if low then 0x06 else 0x00) = daaCorrection high low := by decide
  rw [← hparts, aluDaa, if_pos hn]

theorem aluDaa_subtractive_toNat (hn : flagN f = true) : (aluDaa a f).1.toNat =
    (a.toNat + 256 - (if flagC f = true then 0x60 else 0) - (if flagH f = true then 0x06 else 0)) % 256 := by
  rw [aluDaa_subtractive_fst hn, BitVec.toNat_sub, daaCorrection_toNat]
  split <;> split <;> omega

theorem flagsAre_aluDaa_subtractive (hn : flagN f = true) : FlagsAre (aluDaa a f).2 ((aluDaa a f).1 = 0) True
    False (flagC f = true) := by
  simp only [aluDaa, hn, if_true]
  exact flagsAre_flagByte beq_iff_eq (by decide) (by decide) Iff.rfl

/-! ## What R94 derives of Decimal Adjust -/

/-- A BCD byte without Carry and Half-Carry needs no correction. -/
theorem aluDaa_of_bcd (hn : flagN f = false) (hh : flagH f = false) (hc : flagC f = false)
    (hlow : a.toNat % 16 ≤ 9) (hhigh : a.toNat / 16 ≤ 9) :
    aluDaa a f = (a, flagByte (a == 0) false false false) := by
  have hhigh' : daaHigh a f = false := by simp [daaHigh, hc]; omega
  have hlow' : daaLow a f = false := by simp [daaLow, hh, hlow]
  have hres : (aluDaa a f).1 = a := by
    rw [aluDaa_additive_fst hn, hhigh', hlow']
    exact BitVec.add_zero a
  refine Prod.ext hres ?_
  rw [aluDaa_additive_snd hn, hres, hhigh']

/-- With Carry set the additive branch adds 0x60 or 0x66, neither a multiple of 256. -/
theorem aluDaa_fst_ne_of_carry (hn : flagN f = false) (hc : flagC f = true) : (aluDaa a f).1 ≠ a := by
  have hhigh : daaHigh a f = true := by simp [daaHigh, hc]
  have hcorrection : ∀ low, daaCorrection true low ≠ 0 := by decide
  rw [aluDaa_additive_fst hn, hhigh]
  simpa using hcorrection _

theorem aluDaa_fst_of_carry (hn : flagN f = false) (hh : flagH f = false) (hc : flagC f = true)
    (hlow : a.toNat % 16 ≤ 9) : (aluDaa a f).1 = a + 0x60 := by
  have hhigh : daaHigh a f = true := by simp [daaHigh, hc]
  have hlow' : daaLow a f = false := by simp [daaLow, hh, hlow]
  rw [aluDaa_additive_fst hn, hhigh, hlow']
  rfl

/-- When the additive branch leaves a BCD byte and Carry clear, its flags are those a second application
builds again. -/
theorem aluDaa_idempotent (hn : flagN f = false) (hlow : (aluDaa a f).1.toNat % 16 ≤ 9)
    (hhigh : (aluDaa a f).1.toNat / 16 ≤ 9) (hc : flagC (aluDaa a f).2 = false) :
    aluDaa (aluDaa a f).1 (aluDaa a f).2 = aluDaa a f := by
  obtain ⟨hsub, hhalf, -⟩ := aluDaa_flags a f
  have hcarry : daaHigh a f = false := by rw [← hc, aluDaa_additive_snd hn, flagC_flagByte]
  have hflags := aluDaa_additive_snd (a := a) hn
  rw [hcarry] at hflags
  rw [aluDaa_of_bcd (hsub.trans hn) hhalf hc hlow hhigh, ← hflags]

theorem bcd_toNat {n : Nat} (h : n < 100) : (bcd n).toNat = n / 10 * 16 + n % 10 := by
  rw [bcd, BitVec.toNat_ofNat]
  omega

/-- The decimal digits of a sum from its sums of tens and of units: 0x60 is due for a carry out of the tens, 0x06
for one out of the units (a check of the 361 pairs of digit sums). -/
theorem digits_of_correction : ∀ tens ≤ 18, ∀ units ≤ 18,
    ((tens * 16 + units) % 256 + (if tens * 10 + units > 99 then 0x60 else 0)
      + (if units > 9 then 0x06 else 0)) % 256 =
    (tens * 10 + units) % 100 / 10 * 16 + (tens * 10 + units) % 100 % 10 := by
  decide

/-- The BCD sum: Add in the mode `preUpdate` leaves in Carry and Half-Carry what its byte has lost of the sum of
the tens and of the units, so the tests of Decimal Adjust are those for the decimal carries (R94). -/
theorem daa_of_bcd_sum {x y : Nat} (hx : x < 100) (hy : y < 100) :
    let sum := aluAdd .preUpdate (bcd x) (bcd y).toNat
    (aluDaa sum.1 sum.2).1 = bcd ((x + y) % 100) ∧ (flagC (aluDaa sum.1 sum.2).2 = true ↔ x + y > 99) := by
  intro sum
  have hn : flagN sum.2 = false := flagN_aluAdd ..
  have hsum : sum.1.toNat = ((bcd x).toNat + (bcd y).toNat) % 256 := aluAdd_toNat ..
  obtain ⟨-, -, hhalf, hcarry, -⟩ : FlagsAre sum.2 _ _ _ _ := flagsAre_aluAdd ..
  obtain ⟨-, -, -, hdaa, -⟩ := flagsAre_aluDaa_additive (a := sum.1) hn
  have hbytes : (bcd x).toNat + (bcd y).toNat = (x / 10 + y / 10) * 16 + (x % 10 + y % 10) := by
    rw [bcd_toNat hx, bcd_toNat hy]; ring
  have hdecimal : x + y = (x / 10 + y / 10) * 10 + (x % 10 + y % 10) := by omega
  have htens : x / 10 + y / 10 ≤ 18 := by omega
  have hunits : x % 10 + y % 10 ≤ 18 := by omega
  have hhigh : flagC sum.2 = true ∨ sum.1.toNat > 0x99 ↔ x + y > 99 := by
    rw [hcarry, hsum, hbytes]
    omega
  have hlow : flagH sum.2 = true ∨ sum.1.toNat % 16 > 9 ↔ x % 10 + y % 10 > 9 := by
    rw [hhalf, hsum, hbytes, halfCarryTest, bcd_toNat hx, bcd_toNat hy]
    omega
  refine ⟨BitVec.eq_of_toNat_eq ?_, hdaa.trans hhigh⟩
  simp only [aluDaa_additive_toNat hn, hhigh, hlow]
  rw [hsum, hbytes, bcd_toNat (Nat.mod_lt _ Nat.ofNat_pos), hdecimal]
  exact digits_of_correction _ htens _ hunits

end Sys2Proof.Machine
end

section
/-! THEOREMS. The statements of spec/40_alu_flag_engine.md: the result and the flags of Add-with-carry, Decimal
Adjust and both compares. -/

namespace Sys2Proof.Proofs

open Sys2Proof Sys2Proof.Machine Sys2Proof.Claims

/-- Settles O3: Add-with-carry is Add of the operand incremented by Carry. -/
theorem adcResultAndFlags : Obligations.AdcResultAndFlags := fun mode a b f =>
  ⟨aluAdc_toNat mode a b f, flagsAre_aluAdc mode a b f⟩

/-- Settles O5: Subtract selects the branch, whose correction is the sum of its two parts. -/
theorem daaResultAndFlags : Obligations.DaaResultAndFlags := fun _ _ =>
  ⟨fun hn => ⟨aluDaa_additive_toNat hn, flagsAre_aluDaa_additive hn⟩,
    fun hn => ⟨aluDaa_subtractive_toNat hn, flagsAre_aluDaa_subtractive hn⟩⟩

/-- Settles O6: the corrections of Decimal Adjust restore both decimal digits. -/
theorem bcdAdditionIsCorrectPreUpdate : Obligations.BcdAdditionIsCorrectPreUpdate := fun _ _ => daa_of_bcd_sum

/-- Settles O7: Half-Carry is clear after the first application, so Carry and the byte decide the second. -/
theorem daaIdempotentWhenCarryClear : Obligations.DaaIdempotentWhenCarryClear := by
  refine ⟨fun a f hn hlow hhigh hc => aluDaa_idempotent hn hlow hhigh hc, fun a f hn hc => ?_, rfl, rfl⟩
  obtain ⟨hsub, hhalf, -⟩ := aluDaa_flags a f
  exact ⟨aluDaa_fst_ne_of_carry (hsub.trans hn) hc, aluDaa_fst_of_carry (hsub.trans hn) hhalf hc⟩

/-- Settles O8: equal values are the forced flag byte, different ones Add of the negated operand. -/
theorem compareReferenceFlags : Obligations.CompareReferenceFlags := fun mode a v =>
  ⟨fun h => h ▸ compareReference_same mode a, flagsAre_compareReference_ne mode a v⟩

/-- Settles O9: the flag byte is built from the four tests of the statement. -/
theorem compareCorrectedFlags : Obligations.CompareCorrectedFlags := flagsAre_compareCorrected

end Sys2Proof.Proofs
end

section
/-! SUPPORT. The ALU instructions (spec/41_alu_instructions.md): what each family leaves in the accumulator, its
register and the flags, over the operand of the form. -/

namespace Sys2Proof

open Sys2Proof.Machine Sys2Proof.Claims

theorem exec_of_operation {i : Instr} {op : Operation} (h : i.operation = op) (s : State) :
    exec i s = .next (op.run s) := h ▸ exec_eq_run i s

/-! ## The forms that name a destination -/

/-- The registers an instruction can name as destination (spec/30_encoding.md R66). -/
abbrev Destination : Type := { r : Reg // r ≠ .f }

/-- The seven destinations, in the order of the tables of forms. -/
def destinationTable : List Destination :=
  [⟨.b, by decide⟩, ⟨.c, by decide⟩, ⟨.d, by decide⟩, ⟨.e, by decide⟩, ⟨.h, by decide⟩, ⟨.l, by decide⟩,
   ⟨.a, by decide⟩]

/-- `INC r` (R132 to R138). -/
def Instr.incOn : Destination → Instr
  | ⟨.b, _⟩ => .incB
  | ⟨.c, _⟩ => .incC
  | ⟨.d, _⟩ => .incD
  | ⟨.e, _⟩ => .incE
  | ⟨.h, _⟩ => .incH
  | ⟨.l, _⟩ => .incL
  | ⟨.a, _⟩ => .incA
  | ⟨.f, h⟩ => absurd rfl h

theorem incForms_eq_map : incForms = destinationTable.map fun r : Destination =>
    (.incOn r, fun s => readReg s r, fun v s => writeReg r v s) := rfl

theorem operation_incOn (r : Destination) : (Instr.incOn r).operation = .inc r r.2 := by
  obtain ⟨r, hr⟩ := r
  cases r
  case f => contradiction
  all_goals rfl

/-! ## The families, result and flags -/

namespace Machine

variable (s : State)

theorem flagsAre_mask {f : Byte} {z n h c : Prop} (hf : FlagsAre f z n h c) :
    FlagsAre (f &&& flagMask) z n h c := by
  obtain ⟨hz, hn, hh, hc, -⟩ := hf
  rw [FlagsAre, flagZ_mask, flagN_mask, flagH_mask, flagC_mask]
  exact ⟨hz, hn, hh, hc, mask_low f⟩

/-- Increment leaves the successor in its register. -/
theorem readReg_incrementReg_same {r : Reg} (hr : r ≠ .f) : readReg (incrementReg r s) r = readReg s r + 1 := by
  rw [incrementReg_eq, readReg_set_f _ hr, readReg_writeReg_same s hr]

/-- The flag byte of Increment in terms of the byte it leaves. -/
theorem flagsAre_incrementReg (r : Reg) : FlagsAre (incrementReg r s).f ((readReg s r + 1).toNat = 0) False
    ((readReg s r).toNat % 16 = 15) (flagC s.f = true) := by
  have hhalf : (readReg s r).toNat % 16 + 1 > 15 ↔ (readReg s r).toNat % 16 = 15 := by omega
  rw [incrementReg_eq, ← propext hhalf, BitVec.toNat_add]
  exact flagsAre_aluIncrement ..

theorem writeResult_a_daa : writeResult .a (aluDaa (readReg s .a) (readReg s .f)) s =
    { s with a := (aluDaa s.a s.f).1, f := (aluDaa s.a s.f).2 &&& flagMask } := by
  rw [writeResult_a, readReg_a, readReg_f,
    aluDaa_congr_flags s.a (flagN_mask s.f) (flagH_mask s.f) (flagC_mask s.f)]

/-- The flag byte of Decimal Adjust in both branches. -/
theorem flagsAre_aluDaa (a f : Byte) : FlagsAre (aluDaa a f).2 ((aluDaa a f).1.toNat = 0) (flagN f = true) False
    (flagC f = true ∨ (flagN f = false ∧ a.toNat > 0x99)) := by
  have hzero : (aluDaa a f).1.toNat = 0 ↔ (aluDaa a f).1 = 0 := BitVec.toNat_inj (y := 0)
  rw [hzero]
  cases hn : flagN f
  case false => simpa using flagsAre_aluDaa_additive hn
  case true => simpa using flagsAre_aluDaa_subtractive hn

/-- The flag byte of `CPL`. -/
theorem flagsAre_run_complement : FlagsAre (Operation.complement.run s).f (flagZ s.f = true) True True
    (flagC s.f = true) := by
  obtain ⟨hz, hn, hh, hc⟩ := Operation.flags_run_complement s
  rw [FlagsAre, hz, hn, hh, hc]
  exact ⟨Iff.rfl, by decide, by decide, Iff.rfl, mask_low _⟩

end Machine

end Sys2Proof
end

section
/-! THEOREMS. The statements of spec/41_alu_instructions.md: the ALU instructions form by form. -/

namespace Sys2Proof.Proofs

open Sys2Proof Sys2Proof.Machine Sys2Proof.Claims

/-- Settles O12: each form is Add of its operand, written to the accumulator and `f` alone. -/
theorem addInstructions : Obligations.AddInstructions := by
  intro form hmem s
  obtain ⟨o, ho, hop, hval⟩ := operation_of_addForms form hmem
  refine ⟨addToA o s, exec_of_operation hop s, ?_⟩
  rw [hval, addToA_eq]
  dsimp only
  rw [aluAdd_toNat]
  exact ⟨rfl, flagsAre_aluAdd .., rfl⟩

/-- Settles O13: each form is Add-with-carry of its operand, written to the accumulator and `f` alone. -/
theorem adcInstructions : Obligations.AdcInstructions := by
  intro form hmem s
  obtain ⟨o, ho, hop, hval⟩ := operation_of_adcForms form hmem
  refine ⟨adcToA o s, exec_of_operation hop s, ?_⟩
  rw [hval, adcToA_eq]
  dsimp only
  rw [aluAdc_toNat]
  exact ⟨rfl, flagsAre_aluAdc .., rfl⟩

/-- Settles O14: each form is the AND with its operand, written to the accumulator and `f` alone. -/
theorem andInstructions : Obligations.AndInstructions := by
  intro form hmem s
  obtain ⟨o, ho, hop, hval⟩ := operation_of_andForms form hmem
  refine ⟨andToA o s, exec_of_operation hop s, ?_⟩
  rw [hval, andToA_eq]
  exact ⟨rfl, flagsAre_flagByte (beq_zero_iff_toNat _) (by decide) (by decide) (by decide), rfl⟩

/-- Settles O15: each form writes the flag byte of the reference compare with its operand. -/
theorem compareInstructionsReference : Obligations.CompareInstructionsReference := by
  intro form hmem s hmode
  obtain ⟨o, ho, hop, hval⟩ := operation_of_cpForms form hmem
  obtain ⟨hsame, hne⟩ := compareReferenceFlags s.cfg.hcMode s.a (operandValue s o)
  refine ⟨compareWithA o s, exec_of_operation hop s, ?_⟩
  rw [hval, compareWithA_eq, aluCompare, hmode]
  exact ⟨hsame, hne, rfl⟩

/-- Settles O16: each form writes the flag byte of the corrected compare with its operand. -/
theorem compareInstructionsCorrected : Obligations.CompareInstructionsCorrected := by
  intro form hmem s hmode
  obtain ⟨o, ho, hop, hval⟩ := operation_of_cpForms form hmem
  refine ⟨compareWithA o s, exec_of_operation hop s, ?_⟩
  rw [hval, compareWithA_eq, aluCompare, hmode]
  exact ⟨flagsAre_compareCorrected .., rfl⟩

/-- Settles O17: each form is Increment of its register, whose successor and flag byte are all it writes. -/
theorem incInstructions : Obligations.IncInstructions := by
  intro form hmem s
  rw [incForms_eq_map] at hmem
  obtain ⟨r, -, rfl⟩ := List.mem_map.1 hmem
  refine ⟨incrementReg r s, exec_of_operation (operation_incOn r) s, ?_⟩
  dsimp only
  rw [readReg_incrementReg_same s r.2]
  exact ⟨BitVec.toNat_add .., flagsAre_incrementReg s r, by rw [incrementReg_eq]⟩

/-- Settles O18: Decimal Adjust of the accumulator, in the branch that Subtract selects. -/
theorem daaInstruction : Obligations.DaaInstruction := by
  intro s
  obtain ⟨hadditive, hsubtractive⟩ := daaResultAndFlags s.a s.f
  refine ⟨Operation.daa.run s, exec_daa s, ?_⟩
  rw [Operation.run, writeResult_a_daa]
  refine ⟨?_, flagsAre_mask (flagsAre_aluDaa s.a s.f), rfl⟩
  split
  case isTrue hn => exact (hsubtractive hn).1
  case isFalse hn => exact (hadditive (Bool.eq_false_of_not_eq_true hn)).1

/-- Settles O19: the complement of the accumulator, and Subtract and Half-Carry or-ed into `f`. -/
theorem cplInstruction : Obligations.CplInstruction := fun s =>
  ⟨Operation.complement.run s, exec_cpl s, aluComplement_toNat s.a (s.f &&& flagMask),
    flagsAre_run_complement s, rfl⟩

end Sys2Proof.Proofs
end

section
/-! SUPPORT. Jumps, calls, loads and stores (spec/43_control_transfer.md, spec/44_load_store.md): a form that is
taken, the whole effect of a call, and the forms over a destination or a pair. -/

namespace Sys2Proof

open Sys2Proof.Machine Sys2Proof.Claims

namespace Machine

variable (s : State) (target : Word)

/-! ## A form that is taken -/

theorem jumpIf_taken {s : State} {cc : Cond} (h : cc.Test s.f) : jumpIf cc target s = setPc target s :=
  if_pos ((condHolds_iff_test s cc).2 h)

theorem callIf_taken {s : State} {cc : Cond} (h : cc.Test s.f) : callIf cc target s = callTo target s :=
  if_pos ((condHolds_iff_test s cc).2 h)

/-! ## The call (43_control_transfer.md R187, R188) -/

theorem sub_two_add_one (w : Word) : w - 2 + 1 = w - 1 := by bv_omega

theorem sub_one_ne_sub_two (w : Word) : w - 1 ≠ w - 2 := by bv_omega

/-- Working space after a call: the return address below the old `sp`, high byte first. -/
theorem memRead_callTo (x : Word) : memRead (callTo target s) x =
    if x = s.sp - 1 then highByte s.pc else if x = s.sp - 2 then lowByte s.pc else memRead s x := by
  have hne := sub_one_ne_sub_two s.sp
  rw [callTo_eq, memRead]
  dsimp only
  rw [Memory.read_write, Memory.read_write]
  by_cases hx : x = s.sp - 1
  · rw [hx, if_neg hne, if_pos rfl, if_pos rfl]
  · rw [if_neg hx, if_neg hx]
    rfl

/-- The two bytes at the new `sp` are the return address. -/
theorem memRead16_callTo : memRead16 (callTo target s) (callTo target s).sp = s.pc := by
  rw [callTo_sp, memRead16, sub_two_add_one, memRead_callTo, memRead_callTo, if_pos rfl,
    if_neg (sub_one_ne_sub_two s.sp).symm, if_pos rfl, joinBytes_high_low]

theorem isCall_callTo : IsCall s (callTo target s) target s.pc := by
  refine ⟨by rw [callTo_eq], fun x => ?_, memRead16_callTo s target⟩
  rw [← highByte_eq_ofNat, ← lowByte_eq_ofNat]
  exact memRead_callTo s target x

end Machine

/-! ## The forms over a destination or a pair -/

/-- `LD r,d8` (R200 to R206). -/
def Instr.ldOn : Destination → Byte → Instr
  | ⟨.b, _⟩ => .ldB
  | ⟨.c, _⟩ => .ldC
  | ⟨.d, _⟩ => .ldD
  | ⟨.e, _⟩ => .ldE
  | ⟨.h, _⟩ => .ldH
  | ⟨.l, _⟩ => .ldL
  | ⟨.a, _⟩ => .ldA
  | ⟨.f, h⟩ => absurd rfl h

/-- `LD (rr),A` (R207 to R209). -/
def Instr.storeOn : Pair → Instr
  | .bc => .ldMemBCA
  | .de => .ldMemDEA
  | .hl => .ldMemHLA

/-- `LD A,(rr)` (R210 to R212). -/
def Instr.loadOn : Pair → Instr
  | .bc => .ldAMemBC
  | .de => .ldAMemDE
  | .hl => .ldAMemHL

theorem loadImmediateForms_eq_map : loadImmediateForms = destinationTable.map fun r : Destination =>
    (.ldOn r, fun s => readReg s r, fun v s => writeReg r v s) := rfl

theorem storeForms_eq_map : storeForms = [Pair.bc, .de, .hl].map fun p => (.storeOn p, (readPair · p)) := rfl

theorem loadForms_eq_map : loadForms = [Pair.bc, .de, .hl].map fun p => (.loadOn p, (readPair · p)) := rfl

namespace Machine

variable (s : State)

theorem exec_ldOn (r : Destination) (v : Byte) : exec (.ldOn r v) s = .next (writeReg r v s) := by
  obtain ⟨r, hr⟩ := r
  cases r
  case f => contradiction
  all_goals rfl

theorem exec_storeOn (p : Pair) : exec (.storeOn p) s = .next (storeA p s) := by cases p <;> rfl

theorem exec_loadOn (p : Pair) : exec (.loadOn p) s = .next (loadA p s) := by cases p <;> rfl

end Machine

end Sys2Proof
end

section
/-! THEOREMS. The statements of spec/42_dispatch_loop.md section 3, spec/43_control_transfer.md and
spec/44_load_store.md: HALT, the byte 0xCB, jumps, calls, loads and stores. -/

namespace Sys2Proof.Proofs

open Sys2Proof Sys2Proof.Machine Sys2Proof.Claims

/-- Settles O21: entry into Halted writes the run state alone. -/
theorem haltInstruction : Obligations.HaltInstruction := exec_halt

/-- Settles O22: fault entry writes the run state alone. -/
theorem prefixTakesFaultTwo : Obligations.PrefixTakesFaultTwo := exec_prefixCB

/-- Settles O23: both forms write `pc` alone, `JP (HL)` with the value of the pair. -/
theorem unconditionalJumps : Obligations.UnconditionalJumps :=
  ⟨fun s target => exec_jp s target,
    fun s => ⟨setPc (readPair s .hl) s, exec_jpHL s, joinBytes_toNat s.h s.l, rfl⟩⟩

/-- Settles O25: the condition decides between writing `pc` and changing nothing. -/
theorem conditionalJumps : Obligations.ConditionalJumps := by
  intro form hform s target
  rw [jumpForms_eq_map] at hform
  obtain ⟨cc, -, rfl⟩ := List.mem_map.1 hform
  dsimp only
  rw [exec_jpOn]
  exact ⟨fun h => congrArg Host.Outcome.next (jumpIf_taken target h),
    fun h => congrArg Host.Outcome.next (jumpIf_not_taken target h)⟩

/-- Settles O26: the push of `pc`, then the jump. -/
theorem callInstruction : Obligations.CallInstruction := fun s target =>
  ⟨callTo target s, exec_call s target, isCall_callTo s target⟩

/-- Settles O27: the condition decides between the call and changing nothing. -/
theorem conditionalCalls : Obligations.ConditionalCalls := by
  intro form hform s target
  rw [callForms_eq_map] at hform
  obtain ⟨cc, -, rfl⟩ := List.mem_map.1 hform
  dsimp only
  rw [exec_callOn]
  exact ⟨fun h => ⟨callTo target s, congrArg Host.Outcome.next (callIf_taken target h), isCall_callTo s target⟩,
    fun h => congrArg Host.Outcome.next (callIf_not_taken target h)⟩

/-- Settles O28: each form writes the immediate to its destination. -/
theorem loadImmediateInstructions : Obligations.LoadImmediateInstructions := by
  intro form hform s d8
  rw [loadImmediateForms_eq_map] at hform
  obtain ⟨r, -, rfl⟩ := List.mem_map.1 hform
  exact ⟨exec_ldOn s r d8, readReg_writeReg_same s r.2 d8⟩

/-- Settles O29: each form writes the accumulator at the address of its pair. -/
theorem storeAccumulatorInstructions : Obligations.StoreAccumulatorInstructions := by
  intro form hform s
  rw [storeForms_eq_map] at hform
  obtain ⟨p, -, rfl⟩ := List.mem_map.1 hform
  exact ⟨storeA p s, exec_storeOn s p, fun x => Memory.read_write s.ws (readPair s p) x s.a, storeA_eq s p⟩

/-- Settles O30: each form writes the byte at the address of its pair to the accumulator. -/
theorem loadAccumulatorInstructions : Obligations.LoadAccumulatorInstructions := by
  intro form hform s
  rw [loadForms_eq_map] at hform
  obtain ⟨p, -, rfl⟩ := List.mem_map.1 hform
  exact exec_loadOn s p

end Sys2Proof.Proofs
end

section
/-! SUPPORT. The step (spec/42_dispatch_loop.md, spec/60_exceptions.md): what it does by what the bytes at `pc`
decode to, and where each operation leaves `pc`. -/

namespace Sys2Proof

open Sys2Proof.Machine Sys2Proof.Claims

namespace Machine

variable {s t : State} {i : Instr} {rest : List Byte}

/-! ## The step by the run state and by the fetched bytes -/

theorem step_of_halted (h : s.run = .halted) : step s = .fault .runHalted := by simp [step, h]

theorem step_of_faulted {cause : FaultCause} (h : s.run = .faulted cause) :
    step s = .fault (.runFaulted cause) := by simp [step, h]

/-- Bytes that decode to no instruction: one byte is consumed and the fault with cause 1 taken (R164). -/
theorem step_of_decode_error {error : DecodeError} (hrun : s.run = .running)
    (hdecode : decode (fetchWindow s) = .error error) :
    step s = .next (takeFault .unimplementedOpcode { s with pc := s.pc + 1 }) := by
  rw [step_of_running hrun, fetchInstr_eq, hdecode]

theorem fetchInstr_of_decode (hdecode : decode (fetchWindow s) = .ok (i, rest)) :
    fetchInstr s = (some i, { s with pc := s.pc + BitVec.ofNat 16 i.length }) := by
  rw [fetchInstr_eq, hdecode]

theorem exists_step_of_running (hrun : s.run = .running) : ∃ t, step s = .next t := by
  rcases hdecode : decode (fetchWindow s) with error | ⟨i, rest⟩
  · exact ⟨_, step_of_decode_error hrun hdecode⟩
  · exact ⟨_, (step_of_decode hrun hdecode).trans (exec_eq_run ..)⟩

/-- What every operation and the fault with cause 1 keep of a state with `pc` advanced, a step keeps. -/
theorem property_of_step {P : State → Prop} (hrun : ∀ (op : Operation) (u : State), P u → P (op.run u))
    (hpc : ∀ (u : State) (w : Word), P u → P { u with pc := w })
    (hfault : ∀ u : State, P u → P (takeFault .unimplementedOpcode u)) (hs : P s) (hstep : step s = .next t) :
    P t := by
  obtain ⟨hrunning, -⟩ := step_next_cases hstep
  rcases hdecode : decode (fetchWindow s) with error | ⟨i, rest⟩
  · rw [step_of_decode_error hrunning hdecode] at hstep
    exact Host.Outcome.next.inj hstep ▸ hfault _ (hpc s _ hs)
  · rw [step_of_decode hrunning hdecode] at hstep
    exact eq_run_of_exec hstep ▸ hrun i.operation _ (hpc s _ hs)

/-! ## The run state after an instruction and after a step (R160) -/

theorem run_of_exec_kept (h : exec i s = .next t) (hhalt : i ≠ .halt) (hprefix : i ≠ .prefixCB) :
    t.run = s.run := by
  rcases run_of_exec h hprefix with hkept | ⟨heq, -⟩
  · exact hkept
  · exact absurd heq hhalt

end Machine

/-! ## Each operation: `pc` (spec/10_state.md R20) -/

namespace Operation

variable (s : State)

/-- Where `pc` is after an operation. -/
def nextPc : Operation → Word
  | jump target | call target => target
  | jumpIf cc target | callIf cc target => if condHolds s cc then target else s.pc
  | jumpHL => readPair s .hl
  | _ => s.pc

theorem run_pc (op : Operation) : (op.run s).pc = op.nextPc s := by
  cases op
  case call target => exact callTo_pc s target
  case jumpIf cc target => exact jumpIf_pc s cc target
  case callIf cc target => exact callIf_pc s cc target
  case inc r hr => exact incrementReg_pc s r
  case loadImmediate r hr v => exact writeReg_pc s r v
  case storeSp target => exact memWrite16_pc s target s.sp
  all_goals rfl

/-- A taken call leaves the `pc` it executed with at the new `sp` (R187). -/
theorem memRead16_run_of_callTaken {op : Operation} (h : op.callTaken s = true) :
    memRead16 (op.run s) (op.run s).sp = s.pc := by
  cases op
  case call target => exact memRead16_callTo s target
  case callIf cc target =>
    rw [run, callIf_taken target ((condHolds_iff_test s cc).1 h)]
    exact memRead16_callTo s target
  all_goals exact Bool.noConfusion h

end Operation

theorem nextPc_operation (i : Instr) (s : State) : i.operation.nextPc s = nextPc s i := by
  cases i
  case jpNZ | jpZ | jpNC | jpC | callNZ | callZ | callNC | callC =>
    simp [Instr.operation, Operation.nextPc, nextPc]
  all_goals rfl

/-- Every call is three bytes long. -/
theorem length_of_callTaken {f : Byte} {i : Instr} (h : callTaken f i = true) : i.length = 3 := by
  cases i
  case call | callNZ | callZ | callNC | callC => rfl
  all_goals exact Bool.noConfusion h

theorem memRead16_of_exec_callTaken {i : Instr} {s t : State} (hcall : callTaken s.f i = true)
    (hexec : exec i s = .next t) : memRead16 t t.sp = s.pc := by
  obtain rfl := eq_run_of_exec hexec
  exact Operation.memRead16_run_of_callTaken s (by rw [callTaken_operation, hcall])

/-! ## Each operation: the configuration and the registers it does not write -/

namespace Operation

variable (s : State)

theorem run_cfg (op : Operation) : (op.run s).cfg = s.cfg := by
  cases op
  case inc r hr => exact incrementReg_cfg s r
  case loadImmediate r hr v => exact writeReg_cfg s r v
  case storeSp target => exact memWrite16_cfg s target s.sp
  case jumpIf cc target => exact jumpIf_cfg s cc target
  case call target => exact callTo_cfg s target
  case callIf cc target => exact callIf_cfg s cc target
  all_goals rfl

/-- The one register other than `f` that an operation writes, if there is one (spec/10_state.md, table after
R14). -/
def writtenReg : Operation → Option Reg
  | add _ _ | adc _ _ | and _ _ | daa | complement | load _ => some .a
  | inc r _ | loadImmediate r _ _ => some r
  | _ => none

/-- An operation leaves every register other than `f` alone that it does not write. -/
theorem run_readReg {op : Operation} {r : Reg} (hw : op.writtenReg ≠ some r) (hr : r ≠ .f) :
    readReg (op.run s) r = readReg s r := by
  cases op
  case add | adc | and | daa | complement =>
    have ha : r ≠ .a := fun h => hw (congrArg some h.symm)
    exact (readReg_writeReg_other _ hr _).trans (readReg_writeReg_other s ha _)
  case load =>
    have ha : r ≠ .a := fun h => hw (congrArg some h.symm)
    exact readReg_writeReg_other s ha _
  case inc q hq =>
    have hne : r ≠ q := fun h => hw (congrArg some h.symm)
    exact (readReg_writeReg_other _ hr _).trans (readReg_writeReg_other s hne _)
  case loadImmediate q hq v => exact readReg_writeReg_other s (fun h => hw (congrArg some h.symm)) v
  case compare | flipCarry => exact readReg_writeReg_other s hr _
  case storeSp | jumpIf | call | callIf => cases r <;> simp [run]
  all_goals cases r <;> rfl

end Operation

theorem writtenReg_operation (i : Instr) : i.operation.writtenReg = writtenReg i := by
  cases i <;> rfl

end Sys2Proof
end

section
/-! THEOREMS. The statements of spec/42_dispatch_loop.md and spec/60_exceptions.md about the step, and those of
spec/10_state.md about `pc` and the registers. -/

namespace Sys2Proof.Proofs

open Sys2Proof Sys2Proof.Machine Sys2Proof.Claims

/-- Settles O36: the fetch answers what the list decoder reads from the three bytes at `pc`. -/
theorem stepRunsDecodedInstruction : Obligations.StepRunsDecodedInstruction := fun _ _ _ => step_of_decode

/-- Settles O37: an unimplemented byte decodes to nothing, and 0xCB to the instruction that takes the fault with
cause 2. -/
theorem faultEntry : Obligations.FaultEntry := by
  intro s hrun
  refine ⟨fun h => ?_, fun h => ?_⟩
  · exact step_of_decode_error hrun (decode_none ((decodeOpcode_eq_none_iff _).2 h) _)
  · have hform : decodeOpcode (s.ps.read s.pc) = some (.op .prefixCB) := by rw [h]; rfl
    exact step_of_decode hrun (decode_op hform _)

/-- Settles O38: each clause by the run state. -/
theorem endedRunHasNoStep : Obligations.EndedRunHasNoStep := by
  intro s
  refine ⟨step_of_halted, fun _ => step_of_faulted, ?_⟩
  rcases hrun : s.run with _ | _ | cause
  · obtain ⟨hh, hf, hc⟩ := status_of_running hrun
    simp [hh, hf, hc]
  · obtain ⟨hh, hf, hc⟩ := status_of_halted hrun
    simp [hh, hf, hc]
  · obtain ⟨hh, hf, hc⟩ := status_of_faulted hrun
    cases cause <;> simp [hh, hf, hc, FaultCause.number]

/-- Settles O39: both outcomes of the fetch lead to a next state. -/
theorem runningMachineAlwaysSteps : Obligations.RunningMachineAlwaysSteps := fun _ => exists_step_of_running

/-- Settles O40: the run state is written by HALT, the byte 0xCB and the fault with cause 1 alone. -/
theorem runStateTransitions : Obligations.RunStateTransitions := by
  refine ⟨fun s t hstep => ?_, fun _ => rfl⟩
  obtain ⟨hrun, -⟩ := step_next_cases hstep
  refine ⟨hrun, ?_⟩
  rcases hdecode : decode [s.ps.read s.pc, s.ps.read (s.pc + 1), s.ps.read (s.pc + 2)] with error | ⟨i, rest⟩
  · rw [step_of_decode_error hrun hdecode] at hstep
    exact Host.Outcome.next.inj hstep ▸ takeFault_run ..
  · rw [step_of_decode hrun hdecode] at hstep
    cases i
    case halt => exact eq_run_of_exec hstep ▸ haltRun_run _
    case prefixCB => exact eq_run_of_exec hstep ▸ takeFault_run ..
    all_goals exact (run_of_exec_kept hstep Instr.noConfusion Instr.noConfusion).trans hrun

/-- Settles O42: the fetch moves `pc` past the bytes, the operation leaves or replaces it, and a taken call has
pushed it. -/
theorem programCounterMovement : Obligations.ProgramCounterMovement := by
  refine ⟨fun _ _ _ => fetchInstr_of_decode, fun i s t h => ?_, fun _ _ _ => memRead16_of_exec_callTaken⟩
  rw [eq_run_of_exec h, ← nextPc_operation]
  exact Operation.run_pc s i.operation

/-- Settles O44: the call executes with `pc` three bytes on, which the bytes at the new `sp` join to. -/
theorem callReturnAddressRoundTrip : Obligations.CallReturnAddressRoundTrip := by
  intro s t i rest hrun hdecode hcall hstep
  rw [step_of_decode hrun hdecode, length_of_callTaken hcall] at hstep
  have hreturn : memRead16 t t.sp = s.pc + 3 :=
    memRead16_of_exec_callTaken (s := { s with pc := s.pc + 3 }) hcall hstep
  exact (memRead16_toNat t t.sp).symm.trans (hreturn ▸ BitVec.toNat_add ..)

/-- Settles O48: `f` changes by the operations that write flags, another register by those that write it. -/
theorem registersChangedOnlyByTheirWriters : Obligations.RegistersChangedOnlyByTheirWriters := by
  intro i s t r h hw hf
  obtain rfl := eq_run_of_exec h
  by_cases hr : r = .f
  · subst hr
    rw [readReg_f, readReg_f, Operation.run_f_of_not_writesFlags s (by rw [writesFlags_operation, hf rfl])]
  · exact Operation.run_readReg s (by rw [writtenReg_operation]; exact hw) hr

/-- Settles O51: no operation, no fetch and no fault writes the configuration. -/
theorem configurationIsFixed : Obligations.ConfigurationIsFixed := fun s _ hstep =>
  property_of_step (P := fun u => u.cfg = s.cfg) (fun op u h => (op.run_cfg u).trans h) (fun _ _ h => h)
    (fun _ h => h) rfl hstep

end Sys2Proof.Proofs
end

section
/-! SUPPORT. The invariant of the state (spec/10_state.md R32), the launch (spec/70_reset_and_hazards.md R241), the
views of the registers, and the uniqueness of the canonical form of a memory. -/

namespace Sys2Proof

open Sys2Proof.Machine Sys2Proof.Claims

/-! ## Each operation keeps the invariant -/

namespace Operation

variable (s : State)

theorem run_ps (op : Operation) : (op.run s).ps = s.ps := by
  have hself : op.run s = { op.run s with ps := s.ps } := run_set_ps s op s.ps
  rw [hself]

/-- What writes `f` masks it, so its low nibble is zero. -/
theorem run_f_low (op : Operation) (h : s.f &&& 0x0F = 0) : (op.run s).f &&& 0x0F = 0 := by
  cases hw : op.writesFlags
  case false => rwa [run_f_of_not_writesFlags s hw]
  case true =>
    cases op
    case add | adc | and | compare | inc | daa | complement | flipCarry => exact mask_low _
    all_goals exact Bool.noConfusion hw

theorem run_ws_wf (op : Operation) (h : s.ws.wf) : (op.run s).ws.wf := by
  have hcall : ∀ target, (callTo target s).ws.wf := fun target => by
    rw [callTo_eq]
    exact Memory.write_wf (Memory.write_wf h _ _) _ _
  cases op
  case store p => exact Memory.write_wf h _ _
  case storeSp target => exact Memory.write_wf (Memory.write_wf h _ _) _ _
  case call target => exact hcall target
  case callIf cc target =>
    rw [run, callIf_ws]
    split
    · exact hcall target
    · exact h
  all_goals rwa [run_ws s rfl rfl]

theorem run_inv (op : Operation) (h : s.Inv) : (op.run s).Inv where
  flagsLow := run_f_low s op h.flagsLow
  psWf := (run_ps s op).symm ▸ h.psWf
  wsWf := run_ws_wf s op h.wsWf

end Operation

namespace Machine

theorem inv_of_step {s t : State} (h : s.Inv) (hstep : step s = .next t) : t.Inv :=
  property_of_step (fun op u hu => op.run_inv u hu) (fun _ _ hu => ⟨hu.flagsLow, hu.psWf, hu.wsWf⟩)
    (fun _ hu => ⟨hu.flagsLow, hu.psWf, hu.wsWf⟩) h hstep

/-! ## One launch value: what it keeps and what it sets -/

variable (s : State)

theorem applyLaunchWrite_frame (w : LaunchWrite) : (applyLaunchWrite s w).ps = s.ps ∧
    (applyLaunchWrite s w).ws = s.ws ∧ (applyLaunchWrite s w).run = s.run := by
  cases w
  case reg r v => exact ⟨writeReg_ps s r v, writeReg_ws s r v, writeReg_run s r v⟩
  case pair p v => cases p <;> exact ⟨rfl, rfl, rfl⟩
  all_goals exact ⟨rfl, rfl, rfl⟩

theorem applyLaunchWrite_pc_of_not_sets {s : State} {w : LaunchWrite} (h : setsPc w = false) :
    (applyLaunchWrite s w).pc = s.pc := by
  cases w
  case reg r v => exact writeReg_pc s r v
  case pair p v => cases p <;> rfl
  case pc => exact Bool.noConfusion h
  case sp => rfl

theorem applyLaunchWrite_sp_of_not_sets {s : State} {w : LaunchWrite} (h : setsSp w = false) :
    (applyLaunchWrite s w).sp = s.sp := by
  cases w
  case reg r v => exact writeReg_sp s r v
  case pair p v => cases p <;> rfl
  case pc => rfl
  case sp => exact Bool.noConfusion h

theorem held_writeReg_other {r q : Reg} (h : q ≠ r) (v : Byte) : held (writeReg r v s) q = held s q := by
  cases r <;> cases q
  case b.b | c.c | d.d | e.e | h.h | l.l | a.a | f.f => exact absurd rfl h
  all_goals rfl

theorem held_writeReg_same (r : Reg) (v : Byte) :
    held (writeReg r v s) r = if r = .f then v &&& flagMask else v := by
  cases r <;> rfl

theorem held_applyLaunchWrite_of_not_sets {s : State} {w : LaunchWrite} {r : Reg}
    (h : setsReg w r = false) : held (applyLaunchWrite s w) r = held s r := by
  cases w
  case reg q v => exact held_writeReg_other s (by simpa [setsReg] using h) v
  case pair p v =>
    have hne : r ≠ pairHigh p ∧ r ≠ pairLow p := by
      cases p <;> simpa [setsReg, pairHigh, pairLow] using h
    exact (held_writeReg_other _ hne.2 _).trans (held_writeReg_other s hne.1 _)
  all_goals cases r <;> rfl

theorem readPair_writePair (p : Pair) (v : Word) : readPair (writePair p v s) p = v := by
  cases p <;> exact joinBytes_high_low v

theorem readPair_eq_held (p : Pair) : readPair s p = joinBytes (held s (pairHigh p)) (held s (pairLow p)) := by
  cases p <;> rfl

theorem setsReg_pair (p : Pair) (v : Word) :
    setsReg (.pair p v) (pairHigh p) = true ∧ setsReg (.pair p v) (pairLow p) = true := by
  cases p <;> exact ⟨rfl, rfl⟩

/-- Launch values that set neither half of a pair leave the pair. -/
theorem readPair_applyLaunchWrite_of_not_sets {w : LaunchWrite} {p : Pair} {v : Word}
    (h : ∀ r, setsReg (.pair p v) r = true → setsReg w r = false) :
    readPair (applyLaunchWrite s w) p = readPair s p := by
  obtain ⟨hhigh, hlow⟩ := setsReg_pair p v
  rw [readPair_eq_held, readPair_eq_held, held_applyLaunchWrite_of_not_sets (h _ hhigh),
    held_applyLaunchWrite_of_not_sets (h _ hlow)]

theorem and_flagMask_eq_ofNat : ∀ v : Byte, v &&& flagMask = BitVec.ofNat 8 (v.toNat / 16 * 16) := by decide

/-! ## The launch (R241) -/

variable (ps ws : Word → Byte)

/-- What every launch value keeps, the launch keeps of the state with the images in place. -/
theorem launch_keeps {α : Type} (get : State → α) {writes : List LaunchWrite}
    (keeps : ∀ w ∈ writes, ∀ t : State, get (applyLaunchWrite t w) = get t) :
    get (State.launch ps ws writes s) = get (State.launch ps ws [] s) :=
  foldl_applyLaunchWrite_keeps get writes keeps _

/-- What the launch values after one keep is as that one has set it. -/
theorem launch_append_cons {α : Type} (get : State → α) (before : List LaunchWrite) (w : LaunchWrite)
    {after : List LaunchWrite} (keeps : ∀ x ∈ after, ∀ t : State, get (applyLaunchWrite t x) = get t) :
    get (State.launch ps ws (before ++ w :: after) s) =
      get (applyLaunchWrite (State.launch ps ws before s) w) := by
  rw [launch_append, List.foldl_cons, foldl_applyLaunchWrite_keeps get after keeps]

/-- What every launch value preserves of the state with the images in place, the launch preserves. -/
theorem property_of_launch {P : State → Prop} (hnil : P (State.launch ps ws [] s))
    (hwrite : ∀ t w, P t → P (applyLaunchWrite t w)) (writes : List LaunchWrite) :
    P (State.launch ps ws writes s) :=
  List.foldlRecOn writes applyLaunchWrite hnil fun t ht w _ => hwrite t w ht

/-- The launch puts the images in place and does not set the run state. -/
theorem launch_frame (writes : List LaunchWrite) : (State.launch ps ws writes s).ps = Memory.ofImage ps ∧
    (State.launch ps ws writes s).ws = Memory.ofImage ws ∧ (State.launch ps ws writes s).run = s.run := by
  refine property_of_launch s ps ws
    (P := fun t => t.ps = Memory.ofImage ps ∧ t.ws = Memory.ofImage ws ∧ t.run = s.run)
    ⟨rfl, rfl, rfl⟩ (fun t w ht => ?_) writes
  obtain ⟨hps, hws, hrun⟩ := applyLaunchWrite_frame t w
  rwa [hps, hws, hrun]

theorem writeReg_inv (r : Reg) (v : Byte) {s : State} (h : s.Inv) : (writeReg r v s).Inv where
  flagsLow := by
    by_cases hr : r = .f
    · subst hr
      exact mask_low v
    · rw [writeReg_f_of_ne s hr]
      exact h.flagsLow
  psWf := (writeReg_ps s r v).symm ▸ h.psWf
  wsWf := (writeReg_ws s r v).symm ▸ h.wsWf

theorem applyLaunchWrite_inv (w : LaunchWrite) {s : State} (h : s.Inv) : (applyLaunchWrite s w).Inv := by
  cases w
  case reg r v => exact writeReg_inv r v h
  case pair p v => exact writeReg_inv _ _ (writeReg_inv _ _ h)
  all_goals exact ⟨h.flagsLow, h.psWf, h.wsWf⟩

theorem launch_inv (writes : List LaunchWrite) : (State.launch ps ws writes (State.resetEvent s)).Inv := by
  refine property_of_launch _ ps ws ?_ (fun _ w => applyLaunchWrite_inv w) writes
  have hflags : (0x00 : Byte) &&& 0x0F = 0 := rfl
  rw [launch_nil]
  exact ⟨hflags, Memory.ofImage_wf ps, Memory.ofImage_wf ws⟩

/-! ## The views of the registers (spec/10_state.md R10 to R13) -/

theorem regAt_injective : Function.Injective regAt := by decide

theorem regAt_eq_f_iff : ∀ k : Fin 8, regAt k = .f ↔ k = 7 := by decide

theorem readReg_writeReg (r q : Reg) (v : Byte) : readReg (writeReg r v s) q =
    if q = r then (if r = .f then v &&& flagMask else v) else readReg s q := by
  by_cases hq : q = r
  · subst hq
    rw [if_pos rfl]
    by_cases hf : q = .f
    · rw [if_pos hf, hf, readReg_writeReg_f]
    · rw [if_neg hf, readReg_writeReg_same s hf]
  · rw [if_neg hq, readReg_writeReg_other s hq]

theorem readRegAt_writeRegAt (k j : Fin 8) (v : Byte) : readRegAt (writeRegAt k v s) j =
    if j = k then (if k = 7 then v &&& flagMask else v) else readRegAt s j := by
  simp only [readRegAt, writeRegAt, readReg_writeReg, regAt_injective.eq_iff, regAt_eq_f_iff]

end Machine

/-! ## The canonical form determines the list (spec/20_memory.md) -/

namespace Machine.Memory

/-- A byte that an unlisted address does not hold is listed. -/
theorem mem_of_lookup {m : Memory} {k : Nat} {v : Byte} (h : lookup k m = v) (hv : v ≠ unlistedByte) :
    (k, v) ∈ m := by
  induction m with
  | nil => exact absurd h.symm hv
  | cons head rest ih =>
    by_cases hk : head.1 = k
    · rw [lookup, if_pos hk] at h
      exact List.mem_cons.2 (.inl (Prod.ext hk.symm h.symm))
    · rw [lookup, if_neg hk] at h
      exact List.mem_cons_of_mem _ (ih h)

/-- A cell of a sorted list is the one its address finds. -/
theorem lookup_of_mem {m : Memory} (hm : m.Pairwise (fun x y => x.1 < y.1)) {cell : Host.Cell} (h : cell ∈ m) :
    lookup cell.1 m = cell.2 := by
  induction m with
  | nil => exact absurd h List.not_mem_nil
  | cons head rest ih =>
    obtain ⟨hhead, hrest⟩ := List.pairwise_cons.1 hm
    rcases List.mem_cons.1 h with rfl | h
    · exact if_pos rfl
    · exact (if_neg (hhead cell h).ne).trans (ih hrest h)

theorem subset_of_reads {m n : Memory} (hm : m.wf) (h : ∀ a : Word, m.read a = n.read a) : m ⊆ n := by
  intro cell hmem
  obtain ⟨hlt, hv⟩ := hm.2 cell hmem
  have ha : (BitVec.ofNat 16 cell.1).toNat = cell.1 := Nat.mod_eq_of_lt hlt
  have hread := h (BitVec.ofNat 16 cell.1)
  rw [read, read, ha, lookup_of_mem hm.1 hmem] at hread
  exact mem_of_lookup hread.symm hv

theorem eq_of_reads {m n : Memory} (hm : m.wf) (hn : n.wf) (h : ∀ a : Word, m.read a = n.read a) : m = n := by
  have hirrefl : Std.Irrefl (fun x y : Host.Cell => x.1 < y.1) := ⟨fun x => Nat.lt_irrefl x.1⟩
  have hantisymm : Std.Antisymm (fun x y : Host.Cell => x.1 < y.1) :=
    ⟨fun _ _ hxy hyx => absurd hyx (Nat.lt_asymm hxy)⟩
  exact hm.1.eq_of_mem_iff hn.1 fun _ =>
    ⟨fun hmem => subset_of_reads hm h hmem, fun hmem => subset_of_reads hn (fun a => (h a).symm) hmem⟩

end Machine.Memory

end Sys2Proof
end

section
/-! THEOREMS. The statements of spec/10_state.md section 9, spec/70_reset_and_hazards.md section 2 and
spec/20_memory.md: the invariant, reset and launch, the views of the registers, and the canonical form. -/

namespace Sys2Proof.Proofs

open Sys2Proof Sys2Proof.Machine Sys2Proof.Claims

/-- Settles O52: every operation masks what it writes to `f`, leaves program space alone and writes working space
canonically; the fetch and the fault write none of them. -/
theorem stepKeepsInvariant : Obligations.StepKeepsInvariant := fun _ _ => inv_of_step

/-- Settles O53: `f` is zero and both spaces are the empty list. -/
theorem resetMeetsInvariant : Obligations.ResetMeetsInvariant := ⟨rfl, Memory.empty_wf, Memory.empty_wf⟩

/-- Settles O54, by induction on the run: the launch builds canonical spaces and masks `f`, every step keeps the
invariant. -/
theorem reachableStatesMeetInvariant : Obligations.ReachableStatesMeetInvariant := by
  intro s h
  induction h with
  | launched ps ws writes s => exact launch_inv s ps ws writes
  | stepped s t _ hstep ih => exact inv_of_step ih hstep

/-- Settles O55: the reset event is `State.reset` but for `sp`, the spaces and the configuration. -/
theorem resetEventValues : Obligations.ResetEventValues := fun _ =>
  ⟨rfl, rfl, rfl, rfl, rfl, rfl, rfl, rfl, rfl, rfl, rfl, rfl, rfl, rfl⟩

/-- Settles O56: a launch value sets what it names and keeps the rest, so the last one of each name counts. -/
theorem launchSuppliesImages : Obligations.LaunchSuppliesImages := by
  intro s ps ws
  refine ⟨fun writes => ?_, fun before after r v h => ?_, fun before after p v h => ?_,
    fun before after v h => ?_, fun before after v h => ?_, rfl, fun r => ?_, rfl, rfl⟩
  · obtain ⟨hps, hws, hrun⟩ := launch_frame s ps ws writes
    rw [hps, hws]
    refine ⟨Memory.read_ofImage ps, Memory.read_ofImage ws, hrun, fun r h => ?_, fun h => ?_, fun h => ?_⟩
    · rw [launch_keeps s ps ws (held · r) fun w hw _ => held_applyLaunchWrite_of_not_sets (h w hw)]
      cases r <;> rfl
    · exact launch_keeps s ps ws State.pc fun w hw _ => applyLaunchWrite_pc_of_not_sets (h w hw)
    · exact launch_keeps s ps ws State.sp fun w hw _ => applyLaunchWrite_sp_of_not_sets (h w hw)
  · rw [launch_append_cons s ps ws (held · r) before _ fun w hw _ => held_applyLaunchWrite_of_not_sets (h w hw),
      applyLaunchWrite_reg, held_writeReg_same, and_flagMask_eq_ofNat]
  · rw [launch_append_cons s ps ws (readPair · p) before _ fun w hw t =>
        readPair_applyLaunchWrite_of_not_sets t (h w hw)]
    exact readPair_writePair _ p v
  · exact launch_append_cons s ps ws State.pc before _ fun w hw _ => applyLaunchWrite_pc_of_not_sets (h w hw)
  · exact launch_append_cons s ps ws State.sp before _ fun w hw _ => applyLaunchWrite_sp_of_not_sets (h w hw)
  · cases r <;> rfl

/-- Settles O58: a position names its register, distinct positions distinct ones, and position 7 is `f`. -/
theorem registerViewsShareStorage : Obligations.RegisterViewsShareStorage :=
  ⟨readRegAt_writeRegAt, fun _ => rfl, readPair_writePair⟩

/-- Settles O60: both lists hold the cells their reads give, in the order of the addresses. -/
theorem canonicalMemoriesEqualByReads : Obligations.CanonicalMemoriesEqualByReads := fun _ _ =>
  Memory.eq_of_reads

end Sys2Proof.Proofs
end
